-- ==== Sys2Proof/Word.lean ====
section
/-! DEFINITION. The word types of the ASR block and their plainest operations: the host word of 32 bits, the device byte, the
two IEEE 754 bit patterns (spec/00_scope.md R10, R11), and the six bytes of a sample burst (spec/10_state.md R32). -/

namespace Sys2Proof

/-- A host word: the width of CMD, ARG0, ARG1 and RESULT (R20, D2). -/
abbrev Word := BitVec 32

/-- A device register, or one byte of a command word (R51, R81). -/
abbrev Byte := BitVec 8

/-- A binary32 bit pattern (R11, R45). -/
abbrev F32 := BitVec 32

/-- A binary64 bit pattern (R11, R45). -/
abbrev F64 := BitVec 64

/-- Six bytes, in the order the device sends them: X_low, X_high, Y_low, Y_high, Z_low, Z_high (R32, R59).
The RAW registers hold one; a transport answer carries one, of which an n-byte read uses the first n. -/
structure Burst where
  b0 : Byte
  b1 : Byte
  b2 : Byte
  b3 : Byte
  b4 : Byte
  b5 : Byte
  deriving DecidableEq, Repr, Inhabited

/-- Six zero bytes: the reset value of RAW (R20). -/
def Burst.zero : Burst := ⟨0, 0, 0, 0, 0, 0⟩

/-- The bytes of a burst as a list, in order. -/
def Burst.toList (b : Burst) : List Byte := [b.b0, b.b1, b.b2, b.b3, b.b4, b.b5]

/-- `zext_32` of a byte (R10). -/
def Byte.toWord (b : Byte) : Word := b.setWidth 32

end Sys2Proof
end

