-- ==== Sys2Proof/Syntax.lean ====
section
/-! DEFINITION. The vocabulary of the ASR block: the 19 commands (spec/30_encoding.md R86), why a word is ILLEGAL (R92), the
threshold kinds (R90) and axes (R91), and the transactions and answers of the transport (spec/20_memory.md R61, R62). -/

namespace Sys2Proof

/-- A command with its fields, one constructor per row of spec/opcode_table.json.
`kind` and `axis` are the plain selector byte A (R83); `Instr.wellFormed` says which values are commands. -/
inductive Instr where
  /-- INIT (R200): A[7] = DEF, A[6:0] = ADDR. -/
  | init (useDefault : Bool) (addr : BitVec 7)
  /-- READ_ID (R203). -/
  | readId
  /-- RDREG (R102): A is the device register address. -/
  | rdreg (addr : Byte)
  /-- WRREG (R103): A is the device register address, B the value. -/
  | wrreg (addr : Byte) (value : Byte)
  /-- POWER_ON (R204): B is the mode byte. -/
  | powerOn (mode : Byte)
  /-- GET_POWER (R205). -/
  | getPower
  /-- GET_OFFSETS (R104). -/
  | getOffsets
  /-- SET_OFFSET (R105): A is the axis, B the offset byte. -/
  | setOffset (axis : Byte) (value : Byte)
  /-- GET_FORMAT (R106). -/
  | getFormat
  /-- SET_FORMAT (R107): B is the format byte. -/
  | setFormat (value : Byte)
  /-- ACQUIRE (R141). -/
  | acquire
  /-- PIPE (R142). -/
  | pipe
  /-- TENC (R166): A is the threshold kind. -/
  | tenc (kind : Byte)
  /-- TDEC (R167): A is the threshold kind, B the register code. -/
  | tdec (kind : Byte) (code : Byte)
  /-- SET_THRESH (R168): A is the threshold kind. -/
  | setThresh (kind : Byte)
  /-- GET_THRESH (R169): A is the threshold kind. -/
  | getThresh (kind : Byte)
  /-- CLEAR_SETTINGS (R170). -/
  | clearSettings
  /-- POLL_INT (R192). -/
  | pollInt
  /-- DECODE_INT (R193): B is the status byte. -/
  | decodeInt (status : Byte)
  deriving DecidableEq, Repr

/-- The reasons a word is ILLEGAL, one for each item of R92 (item 3 split by field). -/
inductive DecodeError where
  /-- R92 item 1: OP is not in the opcode map. -/
  | unknownOpcode
  /-- R92 item 2: RSV is not 0. -/
  | reservedNonzero
  /-- R92 item 3: field A must be 0 and is not. -/
  | fieldANonzero
  /-- R92 item 3: field B must be 0 and is not. -/
  | fieldBNonzero
  /-- R92 item 4: the kind is above 8. -/
  | kindOutOfRange
  /-- R92 item 5: the axis is above 2. -/
  | axisOutOfRange
  deriving DecidableEq, Repr

/-- One row of the match and mask table (R87): the mnemonic, the match, the mask, and the largest value field A may have. -/
structure OpcodeRow where
  mnemonic : String
  pattern : Word
  mask : Word
  aMax : Nat
  deriving DecidableEq, Repr

/-- The nine threshold kinds, in the order of their index (R40, R90). -/
inductive Kind where
  | threshTap | dur | latent | window | threshAct | threshInact | threshFf | timeFf | timeInact
  deriving DecidableEq, Repr, Inhabited

/-- The three axes (R91). -/
inductive Axis where
  | x | y | z
  deriving DecidableEq, Repr

/-- A bus transaction (R12, R61). `memWrite` carries the bytes written, so their number is R12's `n`. -/
inductive Transaction where
  | busOpen (addr : BitVec 7)
  | memRead (addr : Byte) (n : Nat)
  | memWrite (addr : Byte) (bytes : List Byte)
  deriving DecidableEq, Repr

/-- What the transport does with one transaction (R62, R67).
`ok` carries six bytes, of which a read of n bytes takes the first n and an open or a write takes none, so every answer is an
answer to every transaction; `never` is a transaction that is never answered (U6). -/
inductive Answer where
  | ok (data : Burst)
  | err
  | never
  deriving DecidableEq, Repr, Inhabited

/-- An answer as the event history keeps it, in the form of spec/95_test_vectors.md: `ok []` for an open or a write that
answered Ok, `ok` with the n bytes of a read. -/
inductive Reply where
  | ok (bytes : List Byte)
  | err
  | never
  deriving DecidableEq, Repr

end Sys2Proof
end

