-- ==== Sys2Proof/WellFormed.lean ====
section
/-! DEFINITION. Which terms of `Instr` are commands of the block: the extra constraints of spec/30_encoding.md R87 and R92 items 4
and 5. Every other field of every command may hold any value of its width (R83, R84, R89). -/

namespace Sys2Proof

/-- The field constraints of R87: a threshold kind is at most 8 (R90), an axis at most 2 (R91). -/
def Instr.wellFormed : Instr → Bool
  | .init _ _ => true
  | .readId => true
  | .rdreg _ => true
  | .wrreg _ _ => true
  | .powerOn _ => true
  | .getPower => true
  | .getOffsets => true
  | .setOffset axis _ => decide (axis.toNat ≤ 2)
  | .getFormat => true
  | .setFormat _ => true
  | .acquire => true
  | .pipe => true
  | .tenc kind => decide (kind.toNat ≤ 8)
  | .tdec kind _ => decide (kind.toNat ≤ 8)
  | .setThresh kind => decide (kind.toNat ≤ 8)
  | .getThresh kind => decide (kind.toNat ≤ 8)
  | .clearSettings => true
  | .pollInt => true
  | .decodeInt _ => true

end Sys2Proof
end

