-- ==== Sys2Proof/Decode.lean ====
section
/-! DEFINITION. The command word (spec/30_encoding.md R80, R81), the opcode map (R86), the decoder (R92, R98), the match and mask
table (R87) and the encoder. The decoder is total: a word that is no command is rejected with the reason of R92. -/

namespace Sys2Proof

/-- OP, bits [31:24] (R81). -/
def fieldOp (w : Word) : Byte := w.extractLsb' 24 8

/-- A, bits [23:16] (R81). -/
def fieldA (w : Word) : Byte := w.extractLsb' 16 8

/-- B, bits [15:8] (R81). -/
def fieldB (w : Word) : Byte := w.extractLsb' 8 8

/-- RSV, bits [7:0] (R81, R85). -/
def fieldRsv (w : Word) : Byte := w.extractLsb' 0 8

/-- A command word from its fields OP, A and B; RSV is 0 (R81, R85). -/
def packWord (op a b : Byte) : Word := op ++ a ++ b ++ (0 : Byte)

/-- Field A must be 0 (R83, R92 item 3). -/
def requireA0 (a : Byte) (r : Except DecodeError Instr) : Except DecodeError Instr :=
  if a = 0 then r else .error .fieldANonzero

/-- Field B must be 0 (R84, R92 item 3). -/
def requireB0 (b : Byte) (r : Except DecodeError Instr) : Except DecodeError Instr :=
  if b = 0 then r else .error .fieldBNonzero

/-- Field A must be a threshold kind (R90, R92 item 4). -/
def requireKind (a : Byte) (r : Except DecodeError Instr) : Except DecodeError Instr :=
  if a.toNat ≤ 8 then r else .error .kindOutOfRange

/-- Field A must be an axis (R91, R92 item 5). -/
def requireAxis (a : Byte) (r : Except DecodeError Instr) : Except DecodeError Instr :=
  if a.toNat ≤ 2 then r else .error .axisOutOfRange

/-- INIT's selector: A[7] is DEF and A[6:0] is ADDR (R83, R89). -/
def decodeInit (a : Byte) : Instr := .init (a.getLsbD 7) (a.extractLsb' 0 7)

/-- The opcode map (R86): the command of an OP value with fields A and B, RSV being 0 already. -/
def decodeFields (op a b : Byte) : Except DecodeError Instr :=
  match op with
  | 0x01#8 => requireB0 b (.ok (decodeInit a))
  | 0x02#8 => requireA0 a (requireB0 b (.ok .readId))
  | 0x03#8 => requireB0 b (.ok (.rdreg a))
  | 0x04#8 => .ok (.wrreg a b)
  | 0x05#8 => requireA0 a (.ok (.powerOn b))
  | 0x06#8 => requireA0 a (requireB0 b (.ok .getPower))
  | 0x07#8 => requireA0 a (requireB0 b (.ok .getOffsets))
  | 0x08#8 => requireAxis a (.ok (.setOffset a b))
  | 0x09#8 => requireA0 a (requireB0 b (.ok .getFormat))
  | 0x0A#8 => requireA0 a (.ok (.setFormat b))
  | 0x10#8 => requireA0 a (requireB0 b (.ok .acquire))
  | 0x11#8 => requireA0 a (requireB0 b (.ok .pipe))
  | 0x20#8 => requireKind a (requireB0 b (.ok (.tenc a)))
  | 0x21#8 => requireKind a (.ok (.tdec a b))
  | 0x22#8 => requireKind a (requireB0 b (.ok (.setThresh a)))
  | 0x23#8 => requireKind a (requireB0 b (.ok (.getThresh a)))
  | 0x24#8 => requireA0 a (requireB0 b (.ok .clearSettings))
  | 0x30#8 => requireA0 a (requireB0 b (.ok .pollInt))
  | 0x31#8 => requireA0 a (.ok (.decodeInt b))
  | _ => .error .unknownOpcode

/-- The decoder (R98): a total function from 32-bit words to a command or the reason the word is ILLEGAL (R92). -/
def decode (w : Word) : Except DecodeError Instr :=
  if fieldRsv w = 0 then decodeFields (fieldOp w) (fieldA w) (fieldB w) else .error .reservedNonzero

/-- The match and mask table (R87), row by row; a row without an extra constraint lets field A be any byte. -/
def opcodeRows : List OpcodeRow :=
  [⟨"INIT", 0x01000000, 0xFF00FFFF, 255⟩,
   ⟨"READ_ID", 0x02000000, 0xFFFFFFFF, 255⟩,
   ⟨"RDREG", 0x03000000, 0xFF00FFFF, 255⟩,
   ⟨"WRREG", 0x04000000, 0xFF0000FF, 255⟩,
   ⟨"POWER_ON", 0x05000000, 0xFFFF00FF, 255⟩,
   ⟨"GET_POWER", 0x06000000, 0xFFFFFFFF, 255⟩,
   ⟨"GET_OFFSETS", 0x07000000, 0xFFFFFFFF, 255⟩,
   ⟨"SET_OFFSET", 0x08000000, 0xFF0000FF, 2⟩,
   ⟨"GET_FORMAT", 0x09000000, 0xFFFFFFFF, 255⟩,
   ⟨"SET_FORMAT", 0x0A000000, 0xFFFF00FF, 255⟩] ++
  [⟨"ACQUIRE", 0x10000000, 0xFFFFFFFF, 255⟩,
   ⟨"PIPE", 0x11000000, 0xFFFFFFFF, 255⟩,
   ⟨"TENC", 0x20000000, 0xFF00FFFF, 8⟩,
   ⟨"TDEC", 0x21000000, 0xFF0000FF, 8⟩,
   ⟨"SET_THRESH", 0x22000000, 0xFF00FFFF, 8⟩,
   ⟨"GET_THRESH", 0x23000000, 0xFF00FFFF, 8⟩,
   ⟨"CLEAR_SETTINGS", 0x24000000, 0xFFFFFFFF, 255⟩,
   ⟨"POLL_INT", 0x30000000, 0xFFFFFFFF, 255⟩,
   ⟨"DECODE_INT", 0x31000000, 0xFFFF00FF, 255⟩]

/-- A word spells a row's command: `w & mask = match`, and the row's extra constraint on field A (R87). -/
def OpcodeRow.spells (r : OpcodeRow) (w : Word) : Bool :=
  w &&& r.mask == r.pattern && decide ((fieldA w).toNat ≤ r.aMax)

/-- The mnemonic of a command, as spec/opcode_table.json spells it (R86). -/
def Instr.mnemonic : Instr → String
  | .init _ _ => "INIT"
  | .readId => "READ_ID"
  | .rdreg _ => "RDREG"
  | .wrreg _ _ => "WRREG"
  | .powerOn _ => "POWER_ON"
  | .getPower => "GET_POWER"
  | .getOffsets => "GET_OFFSETS"
  | .setOffset _ _ => "SET_OFFSET"
  | .getFormat => "GET_FORMAT"
  | .setFormat _ => "SET_FORMAT"
  | .acquire => "ACQUIRE"
  | .pipe => "PIPE"
  | .tenc _ => "TENC"
  | .tdec _ _ => "TDEC"
  | .setThresh _ => "SET_THRESH"
  | .getThresh _ => "GET_THRESH"
  | .clearSettings => "CLEAR_SETTINGS"
  | .pollInt => "POLL_INT"
  | .decodeInt _ => "DECODE_INT"

/-- INIT's selector byte (R89): DEF in bit 7, ADDR in bits 6..0. -/
def encodeInitA (useDefault : Bool) (addr : BitVec 7) : Byte := BitVec.ofBool useDefault ++ addr

/-- The encoder, written from R81, R86 and R89: the word of a well-formed command. -/
def encode : Instr → Word
  | .init d a => packWord 0x01 (encodeInitA d a) 0
  | .readId => packWord 0x02 0 0
  | .rdreg a => packWord 0x03 a 0
  | .wrreg a v => packWord 0x04 a v
  | .powerOn m => packWord 0x05 0 m
  | .getPower => packWord 0x06 0 0
  | .getOffsets => packWord 0x07 0 0
  | .setOffset axis v => packWord 0x08 axis v
  | .getFormat => packWord 0x09 0 0
  | .setFormat v => packWord 0x0A 0 v
  | .acquire => packWord 0x10 0 0
  | .pipe => packWord 0x11 0 0
  | .tenc k => packWord 0x20 k 0
  | .tdec k c => packWord 0x21 k c
  | .setThresh k => packWord 0x22 k 0
  | .getThresh k => packWord 0x23 k 0
  | .clearSettings => packWord 0x24 0 0
  | .pollInt => packWord 0x30 0 0
  | .decodeInt s => packWord 0x31 0 s

/-- The command the decoder reads from the bits `w` of a table row, numbered as spec/opcode_table.json numbers them: one 32-bit
word (R80), bit 0 the least significant. -/
def decodeTableWord (nbits w : Nat) : Option Instr :=
  (decode (BitVec.ofNat 32 (w % 2 ^ nbits))).toOption

end Sys2Proof
end

