-- ==== Sys2Proof/Machine/State.lean ====
section
/-! DEFINITION. The state of the machine as plain data: the block's registers (spec/10_state.md R20), the transport as the block
sees it (spec/20_memory.md R62, R67, R68) and the host's accesses (R69), with the state after reset (spec/70_reset_and_hazards.md
R250), and the reasons a step can stop. -/

namespace Sys2Proof.Machine

/-- The width of a host access (R56). -/
inductive HostWidth where
  | byte | half | word | double
  deriving DecidableEq, Repr

/-- What the world outside the block does to it: the host reads or writes the window at a byte offset (R55, R56), or the platform
asserts reset (R251). Only a 32-bit write is accepted, so a write carries a 32-bit value (assumption log 5). -/
inductive HostInput where
  | read (width : HostWidth) (offset : Byte)
  | write (width : HostWidth) (offset : Byte) (value : Word)
  | reset
  deriving DecidableEq, Repr

/-- The block's registers (R20), each under the spec's name. -/
structure Regs where
  /-- CMD (R22). -/
  cmd : Word
  /-- ARG0 (R23). -/
  arg0 : Word
  /-- ARG1 (R23). -/
  arg1 : Word
  /-- CODE (R25): 0 OK, 1 BUS_ERROR, 2 ILLEGAL, 3 never. -/
  code : BitVec 2
  /-- ANOMALY (R26). -/
  anomaly : Bool
  /-- BOUND (R28). -/
  bound : Bool
  /-- DATA_VALID (R35). -/
  dataValid : Bool
  /-- RESULT (R27). -/
  result : Word
  /-- ID (R29). -/
  id : Byte
  /-- POWER_STATUS (R30). -/
  powerStatus : Byte
  /-- OFS_X (R31). -/
  ofsX : Byte
  /-- OFS_Y (R31). -/
  ofsY : Byte
  /-- OFS_Z (R31). -/
  ofsZ : Byte
  /-- RAW[0..5] (R32). -/
  raw : Burst
  /-- SAMPLE_X (R33), the two's-complement pattern. -/
  sampleX : BitVec 16
  /-- SAMPLE_Y (R33). -/
  sampleY : BitVec 16
  /-- SAMPLE_Z (R33). -/
  sampleZ : BitVec 16
  /-- ROLL (R34), a binary64 pattern. -/
  roll : F64
  /-- PITCH (R34), a binary64 pattern. -/
  pitch : F64
  /-- FLAGS (R36). -/
  flags : Byte
  /-- BUS_ADDR (R28). -/
  busAddr : BitVec 7
  deriving DecidableEq, Repr

/-- Every register at its reset value (R20, R250). -/
def Regs.reset : Regs :=
  { cmd := 0, arg0 := 0, arg1 := 0, code := 0, anomaly := false, bound := false, dataValid := false, result := 0, id := 0,
    powerStatus := 0, ofsX := 0, ofsY := 0, ofsZ := 0, raw := Burst.zero, sampleX := 0, sampleY := 0, sampleZ := 0,
    roll := 0, pitch := 0, flags := 0, busAddr := 0 }

/-- One entry of the event history (R68): the transaction, the device address it went to (R52) and the reply. -/
structure BusEvent where
  device : BitVec 7
  transaction : Transaction
  reply : Reply
  deriving DecidableEq, Repr

/-- The transport as the block sees it (R62, R67, R68); the model's own fields, assumption log 2 and 3. -/
structure Bus where
  /-- The answers of the next transactions, as far as they are determined, oldest first. -/
  answers : List Answer
  /-- How many answers were drawn from `Config.transportAnswer`, which answers when `answers` is empty. -/
  drawn : Nat
  /-- Every transaction issued, oldest first. -/
  history : List BusEvent
  /-- The transaction that was issued and never answered, if the block waits for one (R67). -/
  inFlight : Option Transaction
  deriving DecidableEq, Repr

/-- The host's side (R4, R69); the model's own fields, assumption log 1. -/
structure HostPort where
  /-- The accesses and resets still to come, in order. -/
  pending : List HostInput
  /-- The words the host's reads returned, oldest first. -/
  reads : List Word
  deriving DecidableEq, Repr

/-- The state of the machine: block, transport, host (R4). -/
structure State where
  regs : Regs
  bus : Bus
  host : HostPort
  deriving DecidableEq, Repr

/-- Right after reset (R250): every register at its reset value, no transaction issued, no host access pending. -/
def State.reset : State :=
  { regs := Regs.reset
    bus := { answers := [], drawn := 0, history := [], inFlight := none }
    host := { pending := [], reads := [] } }

/-- Why the machine stops with a fault. -/
inductive Fault where
  /-- Raised by `step` when the block waits for a transaction that never answers and the next input is no reset: the stuck block
  agent of R67 and U6. No command raises it. Safe: nothing is claimed beyond that point. -/
  | transactionUnanswered
  deriving DecidableEq, Repr

/-- Why the machine refuses. -/
inductive Refusal where
  /-- Raised only by a refused arm of `exec`: the instruction has no meaning yet. Safe. -/
  | notModelled (mnemonic : String)
  /-- Raised by `step` for a host access that is not an aligned 32-bit access: outside the block's interface contract (R56, U7,
  which say refuse). No command raises it. Safe. -/
  | hostAccessNotAlignedWord
  deriving DecidableEq, Repr

/-- The outcome of a step of this machine. -/
abbrev Outcome := Host.Outcome State Fault Refusal

end Sys2Proof.Machine
end

