-- ==== Sys2Proof/Machine/Flags.lean ====
section
/-! DEFINITION. The flag computations: INTDEC and the named event flags (spec/44_interrupt_decoder.md R190,
spec/10_state.md R36), and the STATUS view of the completion bits (R24). -/

namespace Sys2Proof.Machine

/-- INTDEC (R190): FLAGS[6:0] = s[6:0] and FLAGS[7] = 0. -/
def intdec (s : Byte) : Byte := (s.extractLsb' 0 7).setWidth 8

/-- The eight named event flags of FLAGS (R36). -/
structure EventFlags where
  freeFall : Bool
  dataReady : Bool
  tap : Bool
  doubleTap : Bool
  activity : Bool
  inactivity : Bool
  watermark : Bool
  overrun : Bool
  deriving DecidableEq, Repr

/-- The named flags of a FLAGS value, by the layout of R36. -/
def eventFlags (flags : Byte) : EventFlags :=
  { freeFall := flags.getLsbD 7
    dataReady := flags.getLsbD 6
    tap := flags.getLsbD 5
    doubleTap := flags.getLsbD 4
    activity := flags.getLsbD 3
    inactivity := flags.getLsbD 2
    watermark := flags.getLsbD 1
    overrun := flags.getLsbD 0 }

/-- The STATUS word (R24): CODE in [1:0], ANOMALY, BOUND and DATA_VALID in bits 2, 3 and 4, and 0 above. -/
def statusWord (r : Regs) : Word :=
  (0#27 ++ BitVec.ofBool r.dataValid ++ BitVec.ofBool r.bound ++ BitVec.ofBool r.anomaly ++ r.code : BitVec 32)

end Sys2Proof.Machine
end

