-- ==== Sys2Proof/Config.lean ====
section
/-! DEFINITION. What the spec leaves to the implementation (spec/00_scope.md R9) or to the transport
(spec/93_implementation_defined.md U1, U2), as constants without a body: nothing can be proved of their values, so whatever is
proved holds for all of them. -/

namespace Sys2Proof

/-- DEFAULT_BUS_ADDR, the bus address INIT uses when DEF = 1 (R9, R201, U15: OPEN). Assumption log 9. -/
opaque Config.defaultBusAddr : BitVec 7

/-- Which of the two legal values DEG_PER_RAD has: 57.3 (false, the default) or 180/π (true) (R9, R137, U13).
Assumption log 7. -/
opaque Config.degPerRadIsExact : Bool

/-- THRESH_ADDR[k] for the kinds whose address the source does not give, k = 1..8 (R9, R40, U14). Assumption log 8. -/
opaque Config.threshAddrParam : Kind → Byte

/-- The value the implementation's ATAN2 has for a direction, `atan2Free negX num den`: y > 0, |y/x| = num/den in lowest terms, x
negative or not (R136, R139, U12). The machine uses it only where it respects P3. Assumption log 6. -/
opaque Config.atan2Free : Bool → Nat → Nat → F64

/-- The value the implementation's ATAN2 has for a pair `atan2Unformed y x` that no command forms and no property fixes: a NaN, an
infinity, or a −0 (R136). Assumption log 6. -/
opaque Config.atan2Unformed : F64 → F64 → F64

/-- ATAN2_TOL_ULP (R9, R136 P3). Assumption log 6. -/
opaque Config.atan2TolUlp : Nat

/-- The transport's n-th free answer (R62, U1, U2): an oracle draw. Assumption log 2. -/
opaque Config.transportAnswer : Nat → Answer

end Sys2Proof
end

