-- ==== Sys2Proof/Machine/Float.lean ====
section
/-! DEFINITION. IEEE 754 arithmetic on bit patterns with roundTiesToEven and no exception flags (spec/00_scope.md R11,
spec/10_state.md R45, D16 to D18): binary32 for the threshold codec, binary64 for the orientation. A finite value is held exactly
as ±sig·2^exp, an operation is computed exactly (or with a sticky bit below the rounding point), and `FpFormat.pack` rounds once. -/

namespace Sys2Proof.Machine

/-- A binary interchange format: the number of stored fraction bits and of exponent bits. -/
structure FpFormat where
  fracBits : Nat
  expBits : Nat
  deriving DecidableEq, Repr

/-- A decoded value: NaN, an infinity, or exactly ±sig·2^exp. -/
inductive FpValue where
  | nan
  | inf (neg : Bool)
  | finite (neg : Bool) (sig : Nat) (exp : Int)
  deriving DecidableEq, Repr

/-- binary32: 23 fraction bits, 8 exponent bits (R11). -/
def binary32 : FpFormat := ⟨23, 8⟩

/-- binary64: 52 fraction bits, 11 exponent bits (R11). -/
def binary64 : FpFormat := ⟨52, 11⟩

/-- The exponent bias. -/
def FpFormat.bias (f : FpFormat) : Int := 2 ^ (f.expBits - 1) - 1

/-- The exponent of the last bit of the subnormal numbers: no finite value has a finer one. -/
def FpFormat.minExp (f : FpFormat) : Int := 1 - f.bias - f.fracBits

/-- The exponent field of infinities and NaNs. -/
def FpFormat.maxField (f : FpFormat) : Nat := 2 ^ f.expBits - 1

/-- The sign bit, as a number to add to a magnitude pattern. -/
def FpFormat.signBit (f : FpFormat) (neg : Bool) : Nat :=
  if neg then 2 ^ (f.fracBits + f.expBits) else 0

/-- The pattern of an infinity. -/
def FpFormat.infinity (f : FpFormat) (neg : Bool) : Nat :=
  f.signBit neg + f.maxField * 2 ^ f.fracBits

/-- The pattern of the quiet NaN an operation answers. No register ever holds it (assumption log 11). -/
def FpFormat.quietNan (f : FpFormat) : Nat :=
  f.maxField * 2 ^ f.fracBits + 2 ^ (f.fracBits - 1)

/-- The value of a bit pattern (R11, `f32(bits)` and `f64(bits)`). -/
def FpFormat.unpack (f : FpFormat) (bits : Nat) : FpValue :=
  let neg := bits.testBit (f.fracBits + f.expBits)
  let field := bits / 2 ^ f.fracBits % 2 ^ f.expBits
  let frac := bits % 2 ^ f.fracBits
  if field = f.maxField then
    if frac = 0 then .inf neg else .nan
  else if field = 0 then .finite neg frac f.minExp
  else .finite neg (2 ^ f.fracBits + frac) (f.minExp + (field - 1 : Nat))

/-- `sig / 2^shift` rounded to an integer, ties to even. -/
def roundShift (sig shift : Nat) : Nat :=
  let q := sig >>> shift
  let r := sig % 2 ^ shift
  if 2 * r > 2 ^ shift ∨ (2 * r = 2 ^ shift ∧ q % 2 = 1) then q + 1 else q

/-- The bit pattern of ±sig·2^exp rounded by roundTiesToEven, subnormals and overflow to infinity included (R11).
`sig` may carry a sticky bit below the rounding point. -/
def FpFormat.pack (f : FpFormat) (neg : Bool) (sig : Nat) (exp : Int) : Nat :=
  if sig = 0 then f.signBit neg
  else
    let quantum := max (exp + (Nat.log2 sig : Int) - f.fracBits) f.minExp
    let m := if quantum ≤ exp then sig <<< (exp - quantum).toNat else roundShift sig (quantum - exp).toNat
    let magnitude := (quantum - f.minExp).toNat * 2 ^ f.fracBits + m
    if f.maxField * 2 ^ f.fracBits ≤ magnitude then f.infinity neg else f.signBit neg + magnitude

/-- Multiplication of two values (R11). -/
def FpFormat.mul (f : FpFormat) (a b : FpValue) : Nat :=
  match a, b with
  | .nan, _ => f.quietNan
  | _, .nan => f.quietNan
  | .inf na, .inf nb => f.infinity (na != nb)
  | .inf na, .finite nb sb _ => if sb = 0 then f.quietNan else f.infinity (na != nb)
  | .finite na sa _, .inf nb => if sa = 0 then f.quietNan else f.infinity (na != nb)
  | .finite na sa ea, .finite nb sb eb => f.pack (na != nb) (sa * sb) (ea + eb)

/-- The quotient of two positive integers scaled by 2^k, with a sticky bit: twice the floor, plus 1 if anything remains. -/
def quotientSticky (k sa sb : Nat) : Nat :=
  2 * (sa <<< k / sb) + (if sa <<< k % sb = 0 then 0 else 1)

/-- Division of two values (R11). -/
def FpFormat.div (f : FpFormat) (a b : FpValue) : Nat :=
  match a, b with
  | .nan, _ => f.quietNan
  | _, .nan => f.quietNan
  | .inf _, .inf _ => f.quietNan
  | .inf na, .finite nb _ _ => f.infinity (na != nb)
  | .finite na _ _, .inf nb => f.signBit (na != nb)
  | .finite na sa ea, .finite nb sb eb =>
    if sb = 0 then (if sa = 0 then f.quietNan else f.infinity (na != nb))
    else f.pack (na != nb) (quotientSticky (2 * f.fracBits + 6) sa sb) (ea - eb - (2 * f.fracBits + 6 : Nat) - 1)

/-- The largest `r` with `r * r ≤ m`, bit by bit from bit `i - 1` down. -/
def isqrtBits (m : Nat) : Nat → Nat → Nat
  | 0, r => r
  | i + 1, r => isqrtBits m i (if (r + 2 ^ i) * (r + 2 ^ i) ≤ m then r + 2 ^ i else r)

/-- The integer square root. -/
def isqrt (m : Nat) : Nat := isqrtBits m (Nat.log2 m / 2 + 1) 0

/-- Twice the integer square root, plus 1 if `m` is no square. -/
def isqrtSticky (m : Nat) : Nat := 2 * isqrt m + (if isqrt m * isqrt m = m then 0 else 1)

/-- Square root of a value (R11). -/
def FpFormat.sqrt (f : FpFormat) (a : FpValue) : Nat :=
  match a with
  | .nan => f.quietNan
  | .inf neg => if neg then f.quietNan else f.infinity false
  | .finite neg sig exp =>
    if sig = 0 then f.signBit neg
    else if neg then f.quietNan
    else
      let odd := exp % 2 = 1
      let sig' := if odd then 2 * sig else sig
      let exp' := if odd then exp - 1 else exp
      f.pack false (isqrtSticky (sig' <<< (2 * f.fracBits + 6))) (exp' / 2 - (f.fracBits + 3 : Nat) - 1)

/-- The nearest value of ±num/den, ties to even, for a nonzero den: the reading of a decimal literal (R97). -/
def FpFormat.ofRatio (f : FpFormat) (neg : Bool) (num den : Nat) : Nat :=
  let k := 2 * f.fracBits + 6 + Nat.log2 den
  f.pack neg (quotientSticky k num den) (-(k : Int) - 1)

/-! ## binary32 -/

/-- The value of a binary32 pattern. -/
def f32Value (a : F32) : FpValue := binary32.unpack a.toNat

/-- `f32_mul` (R11). -/
def f32Mul (a b : F32) : F32 := BitVec.ofNat 32 (binary32.mul (f32Value a) (f32Value b))

/-- `f32_div` (R11). -/
def f32Div (a b : F32) : F32 := BitVec.ofNat 32 (binary32.div (f32Value a) (f32Value b))

/-- `to_f32` of a byte (R164): exact. -/
def f32OfByte (c : Byte) : F32 := BitVec.ofNat 32 (binary32.pack false c.toNat 0)

/-- `is_nan` (R11). -/
def f32IsNan (a : F32) : Bool := f32Value a == .nan

/-- `q < 0`: every negative value and −inf, but not −0.0 and not a NaN (R161). -/
def f32LtZero (a : F32) : Bool :=
  match f32Value a with
  | .nan => false
  | .inf neg => neg
  | .finite neg sig _ => neg && sig != 0

/-- `trunc` (R11): the integer part of a finite value's magnitude; the codec asks it only of 0 ≤ q ≤ 255, where q = −0.0
gives 0 (R161). -/
def f32Trunc (a : F32) : Nat :=
  match f32Value a with
  | .finite _ sig exp => if 0 ≤ exp then sig <<< exp.toNat else sig >>> (-exp).toNat
  | _ => 0

/-- `q > 255`: every value above 255, and +inf, but no NaN (R161). -/
def f32Gt255 (a : F32) : Bool :=
  match f32Value a with
  | .nan => false
  | .inf neg => !neg
  | .finite neg sig exp =>
    !neg && (if 0 ≤ exp then decide (255 < sig <<< exp.toNat) else decide (255 <<< (-exp).toNat < sig))

/-! ## binary64 -/

/-- The value of a binary64 pattern. -/
def f64Value (a : F64) : FpValue := binary64.unpack a.toNat

/-- `f64_mul` (R11). -/
def f64Mul (a b : F64) : F64 := BitVec.ofNat 64 (binary64.mul (f64Value a) (f64Value b))

/-- `f64_sqrt` (R11). -/
def f64Sqrt (a : F64) : F64 := BitVec.ofNat 64 (binary64.sqrt (f64Value a))

/-- `f64_neg` (R11): flips the sign bit. -/
def f64Neg (a : F64) : F64 := a ^^^ 0x8000000000000000#64

/-- `to_f64` (R11): exact for |n| ≤ 2^53. -/
def f64OfInt (n : Int) : F64 := BitVec.ofNat 64 (binary64.pack (decide (n < 0)) n.natAbs 0)

end Sys2Proof.Machine
end

