-- ==== Sys2Proof/Machine/Atan.lean ====
section
/-! DEFINITION. ATAN2 (spec/42_sample_pipeline.md R136, D20): a configuration function bound by the properties P1 (exact special
values), P2 (odd in y), P3 (within ATAN2_TOL_ULP of the real arctangent) and P4 (a function of its arguments), and by the magnitude
invariance of R139: it depends only on the direction of (x, y). The free value `Config.atan2Free` is taken wherever it respects P3;
the correctly rounded reference implementation of R136, which satisfies P3 for every tolerance, stands in where it does not. The
reference is computed in integer arithmetic. -/

namespace Sys2Proof.Machine

/-- PI64, the binary64 value nearest π (R136 P1). -/
def pi64 : F64 := 0x400921FB54442D18#64

/-- PI64/2 (R136 P1). -/
def halfPi64 : F64 := 0x3FF921FB54442D18#64

/-- The sum of the terms of Euler's series for the arctangent from the term after `t` (number n, scaled by a power of two) on, at
most `fuel` of them: term n is term n−1 times 2n/(2n+1) · y²/(x²+y²). -/
def atanTail (yy ss : Nat) : Nat → Nat → Nat → Nat
  | 0, _, _ => 0
  | fuel + 1, n, t =>
    let t' := t * (2 * n) * yy / ((2 * n + 1) * ss)
    t' + atanTail yy ss fuel (n + 1) t'

/-- `atan(y/x)·2^k` for 0 < y ≤ x, by Euler's series; each of the at most k + 8 terms loses less than two units. -/
def atanScaled (k y x : Nat) : Nat :=
  let ss := x * x + y * y
  let t := (x * y) <<< k / ss
  t + atanTail (y * y) ss (k + 8) 1 t

/-- The guard bits of the reference for y/x: 256, and as many more as y is smaller than x, so that a small angle keeps them. -/
def atan2Guard (y x : Nat) : Nat := 256 + (Nat.log2 x - Nat.log2 y)

/-- `atan2(y, ±x)·2^k` for y, x > 0, `negX` being the sign of x: the angle in (0, π). -/
def atan2Scaled (k y x : Nat) (negX : Bool) : Nat :=
  let acute := if y ≤ x then atanScaled k y x else 2 * atanScaled k 1 1 - atanScaled k x y
  if negX then 4 * atanScaled k 1 1 - acute else acute

/-- |y/x| in lowest terms, for y = ±sy·2^ey and x = ±sx·2^ex, not 0: the direction of the pair up to signs (R139). -/
def atan2Direction (sy : Nat) (ey : Int) (sx : Nat) (ex : Int) : Nat × Nat :=
  let e := min ey ex
  let y := sy <<< (ey - e).toNat
  let x := sx <<< (ex - e).toNat
  (y / Nat.gcd y x, x / Nat.gcd y x)

/-- The reference ATAN2 (R136) for a direction with y > 0 and |y/x| = num/den, correctly rounded: the scaled angle carries far more
bits than binary64 and is never an exact binary64 value or a tie, so a sticky 1 is appended. -/
def atan2ReferenceOf (num den : Nat) (negX : Bool) : F64 :=
  let k := atan2Guard num den
  BitVec.ofNat 64 (binary64.pack false (2 * atan2Scaled k num den negX + 1) (-(k : Int) - 1))

/-- P3 for a candidate `r` (R136): it is finite and differs from the real angle by at most `tol` units in the last place of the
angle. The comparison is on the scaled angle, whose own error bound is added to the tolerance. -/
def atan2Admits (tol num den : Nat) (negX : Bool) (r : F64) : Bool :=
  let k := atan2Guard num den
  let angle := atan2Scaled k num den negX
  let ulp := max ((Nat.log2 angle : Int) - k - 52) binary64.minExp
  let up := k + 1100
  match f64Value r with
  | .finite neg sig exp =>
    let value : Int := (sig <<< (exp + up).toNat : Nat)
    let signed : Int := if neg then -value else value
    decide ((signed - (angle <<< 1100 : Nat)).natAbs ≤ tol <<< (ulp + up).toNat + (16 * (k + 8)) <<< 1100)
  | _ => false

/-- The angle of a direction with y > 0 and x ≠ 0: the free value if P3 admits it, else the reference. -/
def atan2OfDirection (tol : Nat) (free : Bool → Nat → Nat → F64) (num den : Nat) (negX : Bool) : F64 :=
  if atan2Admits tol num den negX (free negX num den) then free negX num den else atan2ReferenceOf num den negX

/-- ATAN2 for a y with sign bit 0 that is not +0 (R136 P1, P3), `unformed` being the value where no property fixes one: a NaN, an
infinity, or x = −0, which no command forms. -/
def atan2Upper (tol : Nat) (free : Bool → Nat → Nat → F64) (unformed : F64) (y x : F64) : F64 :=
  match f64Value y, f64Value x with
  | .finite _ sy ey, .finite negX sx ex =>
    if x = 0 then halfPi64
    else if sx = 0 then unformed
    else atan2OfDirection tol free (atan2Direction sy ey sx ex).1 (atan2Direction sy ey sx ex).2 negX
  | .inf _, _ => if x = 0 then halfPi64 else unformed
  | _, _ => unformed

/-- ATAN2 from a tolerance and two free functions (R136 P1, P2, P3, P4). -/
def atan2With (tol : Nat) (free : Bool → Nat → Nat → F64) (unformed : F64 → F64 → F64) (y x : F64) : F64 :=
  if y = 0 then
    match f64Value x with
    | .finite neg sig _ => if neg && sig != 0 then pi64 else if x = 0 || !neg then 0 else unformed y x
    | .inf neg => if neg then pi64 else 0
    | .nan => unformed y x
  else if y = 0x8000000000000000#64 then unformed y x
  else if y.msb then f64Neg (atan2Upper tol free (unformed (f64Neg y) x) (f64Neg y) x)
  else atan2Upper tol free (unformed y x) y x

/-- ATAN2, the configuration field of R9 and R136. -/
def atan2 (y x : F64) : F64 := atan2With Config.atan2TolUlp Config.atan2Free Config.atan2Unformed y x

/-- The reference implementation of R136, correctly rounded: tolerance 0, and no free value. -/
def atan2Reference (y x : F64) : F64 := atan2With 0 (fun _ _ _ => 0x7FF8000000000000#64) (fun _ _ => 0x7FF8000000000000#64) y x

end Sys2Proof.Machine
end

