-- ==== Sys2Proof/Machine/Operands.lean ====
section
/-! DEFINITION. Operands and constant tables: the kind and axis selectors (spec/30_encoding.md R89 to R91), the register operands
ARG0 and ARG1 (R88), the device registers and their addresses (spec/10_state.md R41), the threshold table (R40), DATA_FORMAT_DEFAULT (R42)
and DEG_PER_RAD (spec/42_sample_pipeline.md R137). -/

namespace Sys2Proof.Machine

/-! ## Threshold kinds (R40, R90) -/

/-- The kind a selector byte names; none above 8 (R90). -/
def kindOfByte (a : Byte) : Option Kind :=
  match a with
  | 0x00#8 => some .threshTap
  | 0x01#8 => some .dur
  | 0x02#8 => some .latent
  | 0x03#8 => some .window
  | 0x04#8 => some .threshAct
  | 0x05#8 => some .threshInact
  | 0x06#8 => some .threshFf
  | 0x07#8 => some .timeFf
  | 0x08#8 => some .timeInact
  | _ => none

/-- The index of a kind (R40). -/
def kindIndex : Kind → Byte
  | .threshTap => 0
  | .dur => 1
  | .latent => 2
  | .window => 3
  | .threshAct => 4
  | .threshInact => 5
  | .threshFf => 6
  | .timeFf => 7
  | .timeInact => 8

/-- The kinds in the order of their index, the order of CLEAR_SETTINGS (R40, R171). -/
def kindOrder : List Kind :=
  [.threshTap, .dur, .latent, .window, .threshAct, .threshInact, .threshFf, .timeFf, .timeInact]

/-- SCALE32[k], the binary32 bits of R40. -/
def scale32 : Kind → F32
  | .threshTap => 0x3D800000
  | .dur => 0x3A23D70A
  | .latent => 0x3AA3D70A
  | .window => 0x3AA3D70A
  | .threshAct => 0x3D800000
  | .threshInact => 0x3D800000
  | .threshFf => 0x3D800000
  | .timeFf => 0x3BA3D70A
  | .timeInact => 0x3F800000

/-- THRESH_ADDR[k] (R9, R40): 29 for THRESH_TAP, the parameter for the others. -/
def threshAddr : Kind → Byte
  | .threshTap => 29
  | .dur => Config.threshAddrParam .dur
  | .latent => Config.threshAddrParam .latent
  | .window => Config.threshAddrParam .window
  | .threshAct => Config.threshAddrParam .threshAct
  | .threshInact => Config.threshAddrParam .threshInact
  | .threshFf => Config.threshAddrParam .threshFf
  | .timeFf => Config.threshAddrParam .timeFf
  | .timeInact => Config.threshAddrParam .timeInact

/-- The defaults of THRESH_ADDR that R40 lists from general knowledge; no command uses this table. -/
def threshAddrDefault : Kind → Byte
  | .threshTap => 29
  | .dur => 33
  | .latent => 34
  | .window => 35
  | .threshAct => 36
  | .threshInact => 37
  | .threshFf => 40
  | .timeFf => 41
  | .timeInact => 38

/-! ## Device registers (R41) -/

/-- The device registers the spec names: those of R41, with the threshold registers of R40, THRESH_TAP among them. -/
inductive DeviceRegister where
  | devid
  | threshold (k : Kind)
  | ofsx | ofsy | ofsz
  | bwRate
  | powerCtl
  | intEnable
  | intSource
  | dataFormat
  | datax0 | datax1 | datay0 | datay1 | dataz0 | dataz1
  | fifoStatus
  deriving DecidableEq, Repr

/-- The address of a named device register (R40, R41). BW_RATE, INT_ENABLE and FIFO_STATUS are reached by RDREG and WRREG only. -/
def DeviceRegister.address : DeviceRegister → Byte
  | .devid => 0
  | .threshold k => threshAddr k
  | .ofsx => 30
  | .ofsy => 31
  | .ofsz => 32
  | .bwRate => 44
  | .powerCtl => 45
  | .intEnable => 46
  | .intSource => 48
  | .dataFormat => 49
  | .datax0 => 50
  | .datax1 => 51
  | .datay0 => 52
  | .datay1 => 53
  | .dataz0 => 54
  | .dataz1 => 55
  | .fifoStatus => 57

/-- The address of DEVID. -/
def devidAddr : Byte := DeviceRegister.devid.address
/-- The address of OFSX; OFSY and OFSZ follow it. -/
def ofsxAddr : Byte := DeviceRegister.ofsx.address
/-- The address of POWER_CTL. -/
def powerCtlAddr : Byte := DeviceRegister.powerCtl.address
/-- The address of INT_SOURCE. -/
def intSourceAddr : Byte := DeviceRegister.intSource.address
/-- The address of DATA_FORMAT. -/
def dataFormatAddr : Byte := DeviceRegister.dataFormat.address
/-- The address of DATAX0, the first of the six data registers. -/
def datax0Addr : Byte := DeviceRegister.datax0.address

/-- DATA_FORMAT_DEFAULT (R42). -/
def dataFormatDefault : Byte := 0x08

/-! ## Axes (R91) -/

/-- The axis a selector byte names; none above 2 (R91). -/
def axisOfByte (a : Byte) : Option Axis :=
  match a with
  | 0x00#8 => some .x
  | 0x01#8 => some .y
  | 0x02#8 => some .z
  | _ => none

/-- The selector byte of an axis (R83, R91). -/
def axisIndex : Axis → Byte
  | .x => 0
  | .y => 1
  | .z => 2

/-- The offset register of an axis (R41, R89). -/
def offsetRegister : Axis → DeviceRegister
  | .x => .ofsx
  | .y => .ofsy
  | .z => .ofsz

/-- The device address of an axis' offset register, OFSX + A (R89). -/
def offsetAddr (a : Axis) : Byte := (offsetRegister a).address

/-! ## Addresses and register operands (R88, R89) -/

/-- INIT's bus address (R89, R201): DEFAULT_BUS_ADDR if DEF, else ADDR. -/
def initAddr (useDefault : Bool) (addr : BitVec 7) : BitVec 7 :=
  if useDefault then Config.defaultBusAddr else addr

/-- PIPE's six raw bytes: ARG0 low byte first, then ARG1[7:0] and ARG1[15:8] (R88, R142). -/
def pipeBytes (arg0 arg1 : Word) : Burst :=
  { b0 := arg0.extractLsb' 0 8
    b1 := arg0.extractLsb' 8 8
    b2 := arg0.extractLsb' 16 8
    b3 := arg0.extractLsb' 24 8
    b4 := arg1.extractLsb' 0 8
    b5 := arg1.extractLsb' 8 8 }

/-! ## DEG_PER_RAD (R137) -/

/-- 57.3, the default. -/
def degPerRadLiteral : F64 := 0x404CA66666666666#64

/-- 180/π rounded to binary64, the other legal value. -/
def degPerRadExact : F64 := 0x404CA5DC1A63C1F8#64

/-- DEG_PER_RAD: one of the two legal values (R9, R137, C7). -/
def degPerRad : F64 := if Config.degPerRadIsExact then degPerRadExact else degPerRadLiteral

end Sys2Proof.Machine
end

