-- ==== Sys2Proof/Machine/Ops.lean ====
section
/-! DEFINITION. The named operations every command is built from: the writes of the registers, the completions that take the
place of exceptions on this block (spec/60_exceptions.md R220 to R223, spec/00_scope.md R13), the transactions
(spec/20_memory.md R61 to R68), the BOUND check (spec/30_encoding.md R94), and reset (spec/70_reset_and_hazards.md R251). -/

namespace Sys2Proof.Machine

/-! ## Writes of the registers -/

/-- `x[CMD] <- v` (R22). -/
def Regs.setCmd (r : Regs) (v : Word) : Regs := { r with cmd := v }

/-- `x[ARG0] <- v` (R23). -/
def Regs.setArg0 (r : Regs) (v : Word) : Regs := { r with arg0 := v }

/-- `x[ARG1] <- v` (R23). -/
def Regs.setArg1 (r : Regs) (v : Word) : Regs := { r with arg1 := v }

/-- `x[CODE] <- v` (R25). -/
def Regs.setCode (r : Regs) (v : BitVec 2) : Regs := { r with code := v }

/-- `x[ANOMALY] <- v` (R26). -/
def Regs.setAnomaly (r : Regs) (v : Bool) : Regs := { r with anomaly := v }

/-- `anomaly()`, if its condition holds (R13, R26). -/
def Regs.noteAnomaly (r : Regs) (c : Bool) : Regs := { r with anomaly := r.anomaly || c }

/-- `x[RESULT] <- v` (R27). -/
def Regs.setResult (r : Regs) (v : Word) : Regs := { r with result := v }

/-- `x[ID] <- v` (R29). -/
def Regs.setId (r : Regs) (v : Byte) : Regs := { r with id := v }

/-- `x[POWER_STATUS] <- v` (R30). -/
def Regs.setPowerStatus (r : Regs) (v : Byte) : Regs := { r with powerStatus := v }

/-- The three offsets together (R31, R104). -/
def Regs.setOffsets (r : Regs) (x y z : Byte) : Regs := { r with ofsX := x, ofsY := y, ofsZ := z }

/-- The offset of one axis (R31, R105). -/
def Regs.setOffset (r : Regs) (a : Axis) (v : Byte) : Regs :=
  match a with
  | .x => { r with ofsX := v }
  | .y => { r with ofsY := v }
  | .z => { r with ofsZ := v }

/-- RAW, SAMPLE, ROLL, PITCH and DATA_VALID, all in one commit (R33, R34, R35, R141). -/
def Regs.setSample (r : Regs) (raw : Burst) (x y z : BitVec 16) (roll pitch : F64) : Regs :=
  { r with raw := raw, sampleX := x, sampleY := y, sampleZ := z, roll := roll, pitch := pitch, dataValid := true }

/-- `x[FLAGS] <- v`, wholesale (R36, R37). -/
def Regs.setFlags (r : Regs) (v : Byte) : Regs := { r with flags := v }

/-- `x[BOUND] <- 0`: the handle is released (R200, R202). -/
def Regs.release (r : Regs) : Regs := { r with bound := false }

/-- `x[BOUND] <- 1; x[BUS_ADDR] <- a` (R28, R200). -/
def Regs.bind (r : Regs) (a : BitVec 7) : Regs := { r with bound := true, busAddr := a }

/-- The fresh entity of INIT: the mirror takes its reset values (R200). -/
def Regs.clearMirror (r : Regs) : Regs :=
  { r with
    id := 0, powerStatus := 0, ofsX := 0, ofsY := 0, ofsZ := 0, raw := Burst.zero, sampleX := 0, sampleY := 0, sampleZ := 0,
    roll := 0, pitch := 0, dataValid := false, flags := 0 }

/-- A change of the registers alone. -/
def State.update (s : State) (f : Regs → Regs) : State := { s with regs := f s.regs }

/-! ## Completion (R13, R25, R26): what the block has instead of exceptions (R220) -/

/-- Every command's first line, `x[ANOMALY] <- 0` (R26). -/
def State.start (s : State) : State := s.update fun r => r.setAnomaly false

/-- Every command's normal end, `x[CODE] <- 0` (R25). -/
def State.finishOk (s : State) : State := s.update fun r => r.setCode 0

/-- `raise BusError` (R13): CODE 1, and every write committed before it stands. -/
def State.raiseBusError (s : State) : State := s.update fun r => r.setCode 1

/-- `raise Illegal` (R13, R92): CODE 2 and ANOMALY 0, and nothing else. -/
def State.raiseIllegal (s : State) : State := s.update fun r => (r.setAnomaly false).setCode 2

/-! ## Transactions (R61 to R68) -/

/-- How many bytes a transaction's Ok answer carries (R62). -/
def transactionReadCount : Transaction → Nat
  | .busOpen _ => 0
  | .memRead _ n => n
  | .memWrite _ _ => 0

/-- An answer as the history keeps it: the bytes the transaction asked for (R62). -/
def answerReply (t : Transaction) : Answer → Reply
  | .ok d => .ok (d.toList.take (transactionReadCount t))
  | .err => .err
  | .never => .never

/-- The answer the next transaction gets: the oldest determined one, or a free draw (R62, U1, U2). -/
def Bus.nextAnswer (b : Bus) : Answer :=
  match b.answers with
  | a :: _ => a
  | [] => Config.transportAnswer b.drawn

/-- The bus after one transaction to a device: its answer is used up, and the history holds the event (R68); a transaction without
an answer stays in flight (R67). -/
def Bus.issue (b : Bus) (device : BitVec 7) (t : Transaction) : Bus :=
  { answers := b.answers.tail
    drawn := match b.answers with
      | _ :: _ => b.drawn
      | [] => b.drawn + 1
    history := b.history ++ [⟨device, t, answerReply t b.nextAnswer⟩]
    inFlight := match b.nextAnswer with
      | .never => some t
      | _ => none }

/-- One transaction inside a command (R14, R67, R68): on Ok the command goes on with the bytes, on Err it ends as `onErr` says, and
without an answer it stays where it is, none of its register writes committed: the registers are still `base`, those before it. -/
def State.transact (s : State) (base : Regs) (device : BitVec 7) (t : Transaction)
    (onErr : State → State) (onOk : Burst → State → State) : State :=
  match s.bus.nextAnswer with
  | .ok d => onOk d { s with bus := s.bus.issue device t }
  | .err => onErr { s with bus := s.bus.issue device t }
  | .never => { s with regs := base, bus := s.bus.issue device t }

/-- `MemRead(addr, n)` at the bound device, `raise BusError` on Err (R12, R52, R101). -/
def State.memRead (s : State) (base : Regs) (addr : Byte) (n : Nat) (onOk : Burst → State → State) : State :=
  s.transact base s.regs.busAddr (.memRead addr n) State.raiseBusError onOk

/-- `MemWrite(addr, 1, [v])` at the bound device, `raise BusError` on Err (R12, R52, R101). -/
def State.memWrite (s : State) (base : Regs) (addr v : Byte) (onOk : State → State) : State :=
  s.transact base s.regs.busAddr (.memWrite addr [v]) State.raiseBusError fun _ s' => onOk s'

/-! ## The shape of a command (R93) -/

/-- A bus command (R94): with BOUND = 0 it ends in BUS_ERROR with no transaction; else it starts, and `body` runs. -/
def busCommand (s : State) (body : State → State) : Outcome :=
  .next (if s.regs.bound then body s.start else s.start.raiseBusError)

/-- A command that touches no bus: it starts, writes registers, and ends OK (R94). -/
def pureCommand (s : State) (f : Regs → Regs) : Outcome :=
  .next (s.start.update f).finishOk

/-- An ill-formed command term stands for a word that does not decode: ILLEGAL (R92). -/
def illegalCommand (s : State) : Outcome := .next s.raiseIllegal

/-! ## Reset (R251, R252) -/

/-- The reset input: every register takes its reset value and the transaction in flight is abandoned; no transaction is issued, and
the device and the transport keep what they have (R251, R252). -/
def State.applyReset (s : State) : State :=
  { s with regs := Regs.reset, bus := { s.bus with inFlight := none } }

end Sys2Proof.Machine
end

