-- ==== Sys2Proof/Machine/Interrupt.lean ====
section
/-! DEFINITION. The interrupt status decoder's commands (spec/44_interrupt_decoder.md): POLL_INT and DECODE_INT. -/

namespace Sys2Proof.Machine

/-- POLL_INT (R192): FLAGS is replaced by INTDEC of the byte read, RESULT keeps the raw byte, bit 7 included. -/
def execPollInt (s : State) : Outcome :=
  busCommand s fun s1 =>
    s1.memRead s.regs intSourceAddr 1 fun d s2 =>
      (s2.update fun r => (r.setFlags (intdec d.b0)).setResult d.b0.toWord).finishOk

/-- DECODE_INT (R193): FLAGS and RESULT are INTDEC(B); no bus. -/
def execDecodeInt (status : Byte) (s : State) : Outcome :=
  pureCommand s fun r => (r.setFlags (intdec status)).setResult (intdec status).toWord

end Sys2Proof.Machine
end

