-- ==== Sys2Proof/Machine/Power.lean ====
section
/-! DEFINITION. The power and identity lifecycle commands (spec/45_power_identity.md): INIT, READ_ID, POWER_ON and GET_POWER. -/

namespace Sys2Proof.Machine

/-- INIT (R200, R201): release the handle; open and bind the address; reset the mirror; read the id, a zero id being anomalous;
read the power status; RESULT = ID. It runs whatever BOUND is (R94). -/
def execInit (useDefault : Bool) (addr : BitVec 7) (s : State) : Outcome :=
  .next
    ((s.start.update Regs.release).transact s.regs (initAddr useDefault addr) (.busOpen (initAddr useDefault addr))
      State.raiseBusError fun _ s1 =>
        (s1.update fun r => (r.bind (initAddr useDefault addr)).clearMirror).memRead s.regs devidAddr 1 fun d s2 =>
          (s2.update fun r => (r.setId d.b0).noteAnomaly (d.b0 == 0)).memRead s.regs powerCtlAddr 1 fun p s3 =>
            (s3.update fun r => (r.setPowerStatus p.b0).setResult r.id.toWord).finishOk)

/-- READ_ID (R203): ID and RESULT are the byte read; a zero id is anomalous and still returned. -/
def execReadId (s : State) : Outcome :=
  busCommand s fun s1 =>
    s1.memRead s.regs devidAddr 1 fun d s2 =>
      (s2.update fun r => ((r.setId d.b0).setResult d.b0.toWord).noteAnomaly (d.b0 == 0)).finishOk

/-- POWER_ON (R204): write POWER_CTL, mirror the byte written, read it back, mirror the byte read; a mismatch of any bit is
anomalous. -/
def execPowerOn (mode : Byte) (s : State) : Outcome :=
  busCommand s fun s1 =>
    s1.memWrite s.regs powerCtlAddr mode fun s2 =>
      (s2.update fun r => r.setPowerStatus mode).memRead s.regs powerCtlAddr 1 fun d s3 =>
        (s3.update fun r => ((r.setPowerStatus d.b0).noteAnomaly (d.b0 != mode)).setResult d.b0.toWord).finishOk

/-- GET_POWER (R205): POWER_STATUS and RESULT are the byte read. -/
def execGetPower (s : State) : Outcome :=
  busCommand s fun s1 =>
    s1.memRead s.regs powerCtlAddr 1 fun d s2 =>
      (s2.update fun r => (r.setPowerStatus d.b0).setResult d.b0.toWord).finishOk

end Sys2Proof.Machine
end

