-- ==== Sys2Proof/Machine/RegisterAccess.lean ====
section
/-! DEFINITION. The register access commands (spec/41_register_access.md): RDREG, WRREG, GET_OFFSETS, SET_OFFSET, GET_FORMAT and
SET_FORMAT. Each follows its rule's pseudocode line by line. -/

namespace Sys2Proof.Machine

/-- RDREG (R102): RESULT is the byte read; no mirror changes, whatever the address. -/
def execRdreg (addr : Byte) (s : State) : Outcome :=
  busCommand s fun s1 =>
    s1.memRead s.regs addr 1 fun d s2 => (s2.update fun r => r.setResult d.b0.toWord).finishOk

/-- WRREG (R103): one write; no read-back, no mirror, RESULT unchanged. -/
def execWrreg (addr value : Byte) (s : State) : Outcome :=
  busCommand s fun s1 => s1.memWrite s.regs addr value State.finishOk

/-- GET_OFFSETS (R104): one 3-byte read; the three offsets and RESULT = OFS_Z ++ OFS_Y ++ OFS_X. -/
def execGetOffsets (s : State) : Outcome :=
  busCommand s fun s1 =>
    s1.memRead s.regs ofsxAddr 3 fun d s2 =>
      (s2.update fun r => (r.setOffsets d.b0 d.b1 d.b2).setResult (0#8 ++ d.b2 ++ d.b1 ++ d.b0)).finishOk

/-- SET_OFFSET (R105): one write at OFSX + axis, then that axis' mirror. An axis above 2 is ILLEGAL (R92). -/
def execSetOffset (axis value : Byte) (s : State) : Outcome :=
  match axisOfByte axis with
  | some a =>
    busCommand s fun s1 =>
      s1.memWrite s.regs (offsetAddr a) value fun s2 => (s2.update fun r => r.setOffset a value).finishOk
  | none => illegalCommand s

/-- GET_FORMAT (R106): RESULT is the DATA_FORMAT byte; there is no mirror of it. -/
def execGetFormat (s : State) : Outcome :=
  busCommand s fun s1 =>
    s1.memRead s.regs dataFormatAddr 1 fun d s2 => (s2.update fun r => r.setResult d.b0.toWord).finishOk

/-- SET_FORMAT (R107): one write of DATA_FORMAT; RESULT unchanged. -/
def execSetFormat (value : Byte) (s : State) : Outcome :=
  busCommand s fun s1 => s1.memWrite s.regs dataFormatAddr value State.finishOk

end Sys2Proof.Machine
end

