-- ==== Sys2Proof/Machine/Sample.lean ====
section
/-! DEFINITION. The sample pipeline (spec/42_sample_pipeline.md): PAIR16, DECODE6, ORIENT, and the commands ACQUIRE and PIPE. -/

namespace Sys2Proof.Machine

/-- PAIR16 (R131, R132): the high byte in bits 15..8, the low byte in bits 7..0; the pattern of the s16 result. -/
def pair16 (lo hi : Byte) : BitVec 16 := hi ++ lo

/-- DECODE6 (R133): X, Y and Z of a burst, little-endian per axis. -/
def decode6 (b : Burst) : BitVec 16 × BitVec 16 × BitVec 16 :=
  (pair16 b.b0 b.b1, pair16 b.b2 b.b3, pair16 b.b4 b.b5)

/-- `Y*Y + Z*Z` of the signed samples, exact (R135, R138). -/
def sumSquares (y z : BitVec 16) : Int := y.toInt * y.toInt + z.toInt * z.toInt

/-- ORIENT's roll (R135) for a given ATAN2 and DEG_PER_RAD. -/
def rollWith (atan2 : F64 → F64 → F64) (k : F64) (y z : BitVec 16) : F64 :=
  f64Mul (atan2 (f64OfInt y.toInt) (f64OfInt z.toInt)) k

/-- ORIENT's pitch (R135): the negation comes last, so X = 0 gives −0.0 (R139, D21). -/
def pitchWith (atan2 : F64 → F64 → F64) (k : F64) (x y z : BitVec 16) : F64 :=
  f64Neg (f64Mul (atan2 (f64OfInt x.toInt) (f64Sqrt (f64OfInt (sumSquares y z)))) k)

/-- ORIENT (R135) for a given ATAN2 and DEG_PER_RAD: (roll, pitch). -/
def orientWith (atan2 : F64 → F64 → F64) (k : F64) (x y z : BitVec 16) : F64 × F64 :=
  (rollWith atan2 k y z, pitchWith atan2 k x y z)

/-- ORIENT (R135) with the configuration's ATAN2 (R136) and DEG_PER_RAD (R137). -/
def orient (x y z : BitVec 16) : F64 × F64 := orientWith atan2 degPerRad x y z

/-- The registers after the pipeline ran on six raw bytes (R141, R142): RAW, SAMPLE, ROLL, PITCH and DATA_VALID together. -/
def Regs.runPipeline (r : Regs) (b : Burst) : Regs :=
  r.setSample b (decode6 b).1 (decode6 b).2.1 (decode6 b).2.2
    (orient (decode6 b).1 (decode6 b).2.1 (decode6 b).2.2).1
    (orient (decode6 b).1 (decode6 b).2.1 (decode6 b).2.2).2

/-- ACQUIRE (R141): one 6-byte burst at DATAX0, then the pipeline; RESULT unchanged. -/
def execAcquire (s : State) : Outcome :=
  busCommand s fun s1 =>
    s1.memRead s.regs datax0Addr 6 fun d s2 => (s2.update fun r => r.runPipeline d).finishOk

/-- PIPE (R142): the pipeline on the six bytes of ARG0 and ARG1[15:0]; no bus, RESULT unchanged. -/
def execPipe (s : State) : Outcome :=
  pureCommand s fun r => r.runPipeline (pipeBytes r.arg0 r.arg1)

end Sys2Proof.Machine
end

