-- ==== Sys2Proof/Machine/Threshold.lean ====
section
/-! DEFINITION. The threshold codec (spec/43_threshold_codec.md): ENCODE, DECODE, and the commands TENC, TDEC, SET_THRESH,
GET_THRESH and CLEAR_SETTINGS. -/

namespace Sys2Proof.Machine

/-- The quotient of ENCODE (R161): one binary32 division, roundTiesToEven. -/
def thresholdQuotient (v : F32) (k : Kind) : F32 := f32Div v (scale32 k)

/-- ENCODE (R161): NaN and negative quotients give 0, those above 255 give 0xFF, the rest truncate. -/
def thresholdEncode (v : F32) (k : Kind) : Byte :=
  if f32IsNan (thresholdQuotient v k) then 0x00
  else if f32LtZero (thresholdQuotient v k) then 0x00
  else if f32Gt255 (thresholdQuotient v k) then 0xFF
  else BitVec.ofNat 8 (f32Trunc (thresholdQuotient v k))

/-- DECODE (R164): one binary32 multiplication, roundTiesToEven. -/
def thresholdDecode (c : Byte) (k : Kind) : F32 := f32Mul (f32OfByte c) (scale32 k)

/-- TENC (R166): RESULT = ENCODE(ARG0, k). A kind above 8 is ILLEGAL (R92). -/
def execTenc (kind : Byte) (s : State) : Outcome :=
  match kindOfByte kind with
  | some k => pureCommand s fun r => r.setResult (thresholdEncode r.arg0 k).toWord
  | none => illegalCommand s

/-- TDEC (R167): RESULT = the binary32 bits of DECODE(B, k). -/
def execTdec (kind code : Byte) (s : State) : Outcome :=
  match kindOfByte kind with
  | some k => pureCommand s fun r => r.setResult (thresholdDecode code k)
  | none => illegalCommand s

/-- SET_THRESH (R168): ENCODE(ARG0, k) written to THRESH_ADDR[k]; RESULT = that code on OK. -/
def execSetThresh (kind : Byte) (s : State) : Outcome :=
  match kindOfByte kind with
  | some k =>
    busCommand s fun s1 =>
      s1.memWrite s.regs (threshAddr k) (thresholdEncode s1.regs.arg0 k) fun s2 =>
        (s2.update fun r => r.setResult (thresholdEncode r.arg0 k).toWord).finishOk
  | none => illegalCommand s

/-- GET_THRESH (R169): RESULT = the binary32 bits of DECODE(the byte at THRESH_ADDR[k], k). -/
def execGetThresh (kind : Byte) (s : State) : Outcome :=
  match kindOfByte kind with
  | some k =>
    busCommand s fun s1 =>
      s1.memRead s.regs (threshAddr k) 1 fun d s2 =>
        (s2.update fun r => r.setResult (thresholdDecode d.b0 k)).finishOk
  | none => illegalCommand s

/-- The writes of CLEAR_SETTINGS in order (R170, R171, R173): the encoded zero of every kind, then DATA_FORMAT_DEFAULT. -/
def clearSettingsWrites : List (Byte × Byte) :=
  kindOrder.map (fun k => (threshAddr k, thresholdEncode 0 k)) ++ [(dataFormatAddr, dataFormatDefault)]

/-- The writes of CLEAR_SETTINGS from one on, `n` having been acknowledged (R170, R172, R174): the first Err writes the count and
ends the command; after the last, RESULT is the number of writes. -/
def clearSettingsFrom (base : Regs) : List (Byte × Byte) → Nat → State → State
  | [], n, s => (s.update fun r => r.setResult (BitVec.ofNat 32 n)).finishOk
  | (addr, v) :: rest, n, s =>
    s.transact base s.regs.busAddr (.memWrite addr [v])
      (fun s1 => (s1.update fun r => r.setResult (BitVec.ofNat 32 n)).raiseBusError)
      (fun _ s1 => clearSettingsFrom base rest (n + 1) s1)

/-- CLEAR_SETTINGS (R170): ten writes, not atomic; RESULT counts the acknowledged ones, even on BUS_ERROR (R174). -/
def execClearSettings (s : State) : Outcome :=
  busCommand s fun s1 => clearSettingsFrom s.regs clearSettingsWrites 0 s1

end Sys2Proof.Machine
end

