-- ==== Sys2Proof/Machine/Dispatch.lean ====
section
/-! DEFINITION. The dispatch: one arm per command of spec/opcode_table.json, each a direct call of its meaning. -/

namespace Sys2Proof.Machine

/-- What a command does (spec/30_encoding.md R86, column "semantics rule"). -/
def exec (i : Instr) (s : State) : Host.Outcome State Fault Refusal :=
  match i with
  | .init useDefault addr => Sys2Proof.Machine.execInit useDefault addr s
  | .readId => Sys2Proof.Machine.execReadId s
  | .rdreg addr => Sys2Proof.Machine.execRdreg addr s
  | .wrreg addr value => Sys2Proof.Machine.execWrreg addr value s
  | .powerOn mode => Sys2Proof.Machine.execPowerOn mode s
  | .getPower => Sys2Proof.Machine.execGetPower s
  | .getOffsets => Sys2Proof.Machine.execGetOffsets s
  | .setOffset axis value => Sys2Proof.Machine.execSetOffset axis value s
  | .getFormat => Sys2Proof.Machine.execGetFormat s
  | .setFormat value => Sys2Proof.Machine.execSetFormat value s
  | .acquire => Sys2Proof.Machine.execAcquire s
  | .pipe => Sys2Proof.Machine.execPipe s
  | .tenc kind => Sys2Proof.Machine.execTenc kind s
  | .tdec kind code => Sys2Proof.Machine.execTdec kind code s
  | .setThresh kind => Sys2Proof.Machine.execSetThresh kind s
  | .getThresh kind => Sys2Proof.Machine.execGetThresh kind s
  | .clearSettings => Sys2Proof.Machine.execClearSettings s
  | .pollInt => Sys2Proof.Machine.execPollInt s
  | .decodeInt status => Sys2Proof.Machine.execDecodeInt status s

end Sys2Proof.Machine
end

