-- ==== Sys2Proof/Machine/Window.lean ====
section
/-! DEFINITION. The host window (spec/20_memory.md R55 to R58): which register stands at which offset, and what a read of it
returns. -/

namespace Sys2Proof.Machine

/-- The named 32-bit registers of the window (R55). -/
inductive HostReg where
  | cmd | arg0 | arg1 | status | result | id | power | offsets | raw0 | raw1 | sampleXy | sampleZ
  | rollLo | rollHi | pitchLo | pitchHi | flags | busaddr
  deriving DecidableEq, Repr

/-- The window register at an aligned offset; none at a reserved one (R55). -/
def hostRegAt (offset : Byte) : Option HostReg :=
  match offset with
  | 0x00#8 => some .cmd
  | 0x04#8 => some .arg0
  | 0x08#8 => some .arg1
  | 0x0C#8 => some .status
  | 0x10#8 => some .result
  | 0x14#8 => some .id
  | 0x18#8 => some .power
  | 0x1C#8 => some .offsets
  | 0x20#8 => some .raw0
  | 0x24#8 => some .raw1
  | 0x28#8 => some .sampleXy
  | 0x2C#8 => some .sampleZ
  | 0x30#8 => some .rollLo
  | 0x34#8 => some .rollHi
  | 0x38#8 => some .pitchLo
  | 0x3C#8 => some .pitchHi
  | 0x40#8 => some .flags
  | 0x44#8 => some .busaddr
  | _ => none

/-- The offset of a window register (R55). -/
def hostRegOffset : HostReg → Byte
  | .cmd => 0x00
  | .arg0 => 0x04
  | .arg1 => 0x08
  | .status => 0x0C
  | .result => 0x10
  | .id => 0x14
  | .power => 0x18
  | .offsets => 0x1C
  | .raw0 => 0x20
  | .raw1 => 0x24
  | .sampleXy => 0x28
  | .sampleZ => 0x2C
  | .rollLo => 0x30
  | .rollHi => 0x34
  | .pitchLo => 0x38
  | .pitchHi => 0x3C
  | .flags => 0x40
  | .busaddr => 0x44

/-- The word a window register shows (R55, R58, R60): narrow registers in the low bits with zeros above, packed values low byte
first, binary64 as a low and a high word. -/
def hostRegWord (r : Regs) : HostReg → Word
  | .cmd => r.cmd
  | .arg0 => r.arg0
  | .arg1 => r.arg1
  | .status => statusWord r
  | .result => r.result
  | .id => r.id.toWord
  | .power => r.powerStatus.toWord
  | .offsets => 0#8 ++ r.ofsZ ++ r.ofsY ++ r.ofsX
  | .raw0 => r.raw.b3 ++ r.raw.b2 ++ r.raw.b1 ++ r.raw.b0
  | .raw1 => 0#16 ++ r.raw.b5 ++ r.raw.b4
  | .sampleXy => r.sampleY ++ r.sampleX
  | .sampleZ => 0#16 ++ r.sampleZ
  | .rollLo => r.roll.extractLsb' 0 32
  | .rollHi => r.roll.extractLsb' 32 32
  | .pitchLo => r.pitch.extractLsb' 0 32
  | .pitchHi => r.pitch.extractLsb' 32 32
  | .flags => r.flags.toWord
  | .busaddr => r.busAddr.setWidth 32

/-- A host read at an aligned offset: a reserved offset reads as zero (R57). -/
def hostRead (r : Regs) (offset : Byte) : Word :=
  match hostRegAt offset with
  | some reg => hostRegWord r reg
  | none => 0

/-- The byte of the window at a byte offset, if the host's bus carries words as bytes: byte 0 is bits [7:0] (R58). -/
def windowByte (r : Regs) (offset : Byte) : Byte :=
  (hostRead r (offset &&& 0xFC)).extractLsb' (8 * (offset.toNat % 4)) 8

/-- The only accesses the window accepts: 32 bits wide at a multiple of 4 (R56). -/
def hostAccessOk (width : HostWidth) (offset : Byte) : Bool :=
  width == .word && offset.toNat % 4 == 0

end Sys2Proof.Machine
end

