-- ==== Sys2Proof/Machine/Command.lean ====
section
/-! DEFINITION. How the outside world drives the block, one input a step: host reads and writes of the window
(spec/20_memory.md R56, R57, R69), the write of CMD that runs a command (spec/10_state.md R22, spec/30_encoding.md R93), reset
(spec/70_reset_and_hazards.md R251), waiting (R253), and being stuck (spec/20_memory.md R67). -/

namespace Sys2Proof.Machine

/-- Decide ILLEGAL, else run the command (R92, R93); the BOUND check is the command's own first act. -/
def runWord (w : Word) (s : State) : Outcome :=
  match decode w with
  | .ok i => exec i s
  | .error _ => .next s.raiseIllegal

/-- A host write of a word to CMD stores it, then executes it (R22). -/
def writeCmd (w : Word) (s : State) : Outcome := runWord w (s.update fun r => r.setCmd w)

/-- A 32-bit host write at an aligned offset (R55, R57): CMD runs a command, ARG0 and ARG1 are stored, every other offset ignores
the write. -/
def hostWrite (offset : Byte) (v : Word) (s : State) : Outcome :=
  match hostRegAt offset with
  | some .cmd => writeCmd v s
  | some .arg0 => .next (s.update fun r => r.setArg0 v)
  | some .arg1 => .next (s.update fun r => r.setArg1 v)
  | _ => .next s

/-- The word a host read returns goes to the host; the block does not change (R57). -/
def State.answerRead (s : State) (offset : Byte) : State :=
  { s with host := { s.host with reads := s.host.reads ++ [hostRead s.regs offset] } }

/-- One input (R56, R69, R251). -/
def acceptInput (i : HostInput) (s : State) : Outcome :=
  match i with
  | .read width offset => if hostAccessOk width offset then .next (s.answerRead offset) else .refused .hostAccessNotAlignedWord
  | .write width offset v => if hostAccessOk width offset then hostWrite offset v s else .refused .hostAccessNotAlignedWord
  | .reset => .next s.applyReset

/-- The state once the first pending input has been taken. -/
def State.withPending (s : State) (rest : List HostInput) : State := { s with host := { s.host with pending := rest } }

/-- The next input of a block that is not waiting for the transport; with none, the block waits for one (R253). -/
def takeInput (s : State) : Outcome :=
  match s.host.pending with
  | i :: rest => acceptInput i (s.withPending rest)
  | [] => .next s

/-- A block waiting for an unanswered transaction: only reset ends the wait (R67, R263). -/
def waitForTransport (s : State) : Outcome :=
  match s.host.pending with
  | .reset :: rest => .next (s.withPending rest).applyReset
  | _ => .fault .transactionUnanswered

/-- One step of the machine. -/
def takeStep (s : State) : Outcome :=
  match s.bus.inFlight with
  | none => takeInput s
  | some _ => waitForTransport s

/-- The state in which the host's next access is a write of the table word `w` to CMD, with no transaction in flight, so that the
next step runs it (R22; assumption log 4). -/
def State.placeCommand (s : State) (nbits w : Nat) : State :=
  { s with
    host := { s.host with pending := .write .word 0x00 (BitVec.ofNat 32 (w % 2 ^ nbits)) :: s.host.pending }
    bus := { s.bus with inFlight := none } }

end Sys2Proof.Machine
end

