-- ==== Sys2Proof/Machine/Step.lean ====
section
/-! DEFINITION. The step of the machine and the placing of a command word for it, both by the definitions of
Sys2Proof/Machine/Command.lean. -/

namespace Sys2Proof.Machine

/-- One step: the next host access or reset, and for a write of CMD the whole command (spec/20_memory.md R69, R70). -/
def step (s : State) : Host.Outcome State Fault Refusal := takeStep s

/-- `s` with the word of a table row as the host's next write to CMD: the very next step runs it. -/
def State.withFetchWord (s : State) (nbits w : Nat) : State := s.placeCommand nbits w

end Sys2Proof.Machine
end

