-- ==== Sys2Proof/Machine/Assembler.lean ====
section
/-! DEFINITION. The lines of an assembler program (spec/30_encoding.md R96, R97) as terms, and the host accesses each of them means.
The text of a line (commas, comments, hexadecimal) is only a spelling (spec/00_scope.md R8) and stands outside the model. -/

namespace Sys2Proof.Machine

/-- A kind operand: a name of R90, or a number (R96). -/
inductive KindOperand where
  | name (k : Kind)
  | number (n : Nat)
  deriving DecidableEq, Repr

/-- An axis operand: X, Y or Z, or a number (R96). -/
inductive AxisOperand where
  | name (a : Axis)
  | number (n : Nat)
  deriving DecidableEq, Repr

/-- The operand of INIT: DEFAULT, or a bus address (R96). -/
inductive InitOperand where
  | default
  | address (n : Nat)
  deriving DecidableEq, Repr

/-- A decimal literal ±num/den (R97). -/
structure Decimal where
  neg : Bool
  num : Nat
  den : Nat
  deriving DecidableEq, Repr

/-- One line: a command (R96), a host access directive (R96), or a pseudo-instruction (R97). -/
inductive AsmLine where
  | init (a : InitOperand)
  | readId
  | rdreg (a : Nat)
  | wrreg (a v : Nat)
  | powerOn (v : Nat)
  | getPower
  | getOffsets
  | setOffset (axis : AxisOperand) (v : Nat)
  | getFormat
  | setFormat (v : Nat)
  | acquire
  | pipe
  | tenc (k : KindOperand)
  | tdec (k : KindOperand) (code : Nat)
  | setThresh (k : KindOperand)
  | getThresh (k : KindOperand)
  | clearSettings
  | pollInt
  | decodeInt (v : Nat)
  | hwrite (reg : HostReg) (v : Nat)
  | hread (reg : HostReg)
  | enc (k : KindOperand) (f : Decimal)
  | setth (k : KindOperand) (f : Decimal)
  | pipeb (b0 b1 b2 b3 b4 b5 : Nat)
  | pipes (x y z : Int)
  | wrpower (v : Nat)
  deriving DecidableEq, Repr

/-- A byte operand; out of range is an assembly error (R96). R96 gives 255 as the bound for RDREG and WRREG. DEDUCED for the other
operands that fill field B (POWER_ON, SET_OFFSET, SET_FORMAT, TDEC, DECODE_INT, WRPOWER): they are out of range when they do not fit
its 8 bits (assumption log 14). -/
def byteOperand (n : Nat) : Option Byte := if n ≤ 255 then some (BitVec.ofNat 8 n) else none

/-- The kind byte of an operand (R90, R96). -/
def kindOperand : KindOperand → Option Byte
  | .name k => some (kindIndex k)
  | .number n => if n ≤ 8 then some (BitVec.ofNat 8 n) else none

/-- The axis byte of an operand (R91, R96). -/
def axisOperand : AxisOperand → Option Byte
  | .name a => some (axisIndex a)
  | .number n => if n ≤ 2 then some (BitVec.ofNat 8 n) else none

/-- INIT's command: DEFAULT is A = 0x80, an address is at most 127 (R96). -/
def initOperand : InitOperand → Option Instr
  | .default => some (.init true 0)
  | .address n => if n ≤ 127 then some (.init false (BitVec.ofNat 7 n)) else none

/-- The command a command line spells; none for an assembly error, and none for a line that is no command (R96, R97). -/
def asmCommand : AsmLine → Option Instr
  | .init a => initOperand a
  | .readId => some .readId
  | .rdreg a => (byteOperand a).map .rdreg
  | .wrreg a v => (byteOperand a).bind fun a => (byteOperand v).map (.wrreg a)
  | .powerOn v => (byteOperand v).map .powerOn
  | .getPower => some .getPower
  | .getOffsets => some .getOffsets
  | .setOffset x v => (axisOperand x).bind fun a => (byteOperand v).map (.setOffset a)
  | .getFormat => some .getFormat
  | .setFormat v => (byteOperand v).map .setFormat
  | .acquire => some .acquire
  | .pipe => some .pipe
  | .tenc k => (kindOperand k).map .tenc
  | .tdec k c => (kindOperand k).bind fun k => (byteOperand c).map (.tdec k)
  | .setThresh k => (kindOperand k).map .setThresh
  | .getThresh k => (kindOperand k).map .getThresh
  | .clearSettings => some .clearSettings
  | .pollInt => some .pollInt
  | .decodeInt v => (byteOperand v).map .decodeInt
  | .wrpower v => (byteOperand v).map .powerOn
  | .hwrite _ _ => none
  | .hread _ => none
  | .enc k _ => (kindOperand k).map .tenc
  | .setth k _ => (kindOperand k).map .setThresh
  | .pipeb _ _ _ _ _ _ => some .pipe
  | .pipes _ _ _ => some .pipe

/-- `HWRITE reg, v` (R96). -/
def hostWriteOf (reg : HostReg) (v : Word) : HostInput := .write .word (hostRegOffset reg) v

/-- `bits32(f)`: the binary32 nearest the literal, ties to even (R97). DESIGN CHOICE: a denominator of 0 is no literal, and an assembly
error (assumption log 14). -/
def decimalBits (f : Decimal) : Option Word :=
  if f.den = 0 then none else some (BitVec.ofNat 32 (binary32.ofRatio f.neg f.num f.den))

/-- The argument writes PIPEB makes before its PIPE (R97): byte 0 lowest in ARG0, bytes 4 and 5 in ARG1[15:0]. -/
def pipeArguments (b : Burst) : List HostInput :=
  [hostWriteOf .arg0 (b.b3 ++ b.b2 ++ b.b1 ++ b.b0), hostWriteOf .arg1 (0#16 ++ b.b5 ++ b.b4)]

/-- The six byte operands of PIPEB (R97). DESIGN CHOICE: R97 gives them no range, and the model makes one above 255 an assembly
error, as R96 does for a byte operand (assumption log 14). -/
def burstOperand (b0 b1 b2 b3 b4 b5 : Nat) : Option Burst :=
  (byteOperand b0).bind fun b0 => (byteOperand b1).bind fun b1 => (byteOperand b2).bind fun b2 =>
    (byteOperand b3).bind fun b3 => (byteOperand b4).bind fun b4 => (byteOperand b5).map fun b5 => ⟨b0, b1, b2, b3, b4, b5⟩

/-- A sample operand of PIPES, in [-32768, 32767] (R97). -/
def sampleOperand (v : Int) : Option (BitVec 16) :=
  if -32768 ≤ v ∧ v ≤ 32767 then some (BitVec.ofInt 16 v) else none

/-- The bytes lo(x), hi(x), lo(y), hi(y), lo(z), hi(z) of PIPES (R97). -/
def sampleBytes (x y z : BitVec 16) : Burst :=
  ⟨x.extractLsb' 0 8, x.extractLsb' 8 8, y.extractLsb' 0 8, y.extractLsb' 8 8, z.extractLsb' 0 8, z.extractLsb' 8 8⟩

/-- The host accesses a line makes before its command, or all of them for a directive (R96, R97); none for an assembly error.
DEDUCED: a value of HWRITE that does not fit its 32-bit host write is one (assumption log 14). -/
def asmPrelude : AsmLine → Option (List HostInput)
  | .hwrite reg v => if v < 2 ^ 32 then some [hostWriteOf reg (BitVec.ofNat 32 v)] else none
  | .hread reg => some [.read .word (hostRegOffset reg)]
  | .enc _ f => (decimalBits f).map fun w => [hostWriteOf .arg0 w]
  | .setth _ f => (decimalBits f).map fun w => [hostWriteOf .arg0 w]
  | .pipeb b0 b1 b2 b3 b4 b5 => (burstOperand b0 b1 b2 b3 b4 b5).map pipeArguments
  | .pipes x y z =>
    (sampleOperand x).bind fun x => (sampleOperand y).bind fun y =>
      (sampleOperand z).map fun z => pipeArguments (sampleBytes x y z)
  | _ => some []

/-- The line is a host access directive. -/
def AsmLine.isDirective : AsmLine → Bool
  | .hwrite _ _ => true
  | .hread _ => true
  | _ => false

/-- The host accesses of a line: a command line `M ops` is `HWRITE CMD, encode(M ops)` (R96), a pseudo-instruction its expansion
(R97); none is an assembly error. -/
def assembleLine (l : AsmLine) : Option (List HostInput) :=
  if l.isDirective then asmPrelude l
  else (asmPrelude l).bind fun before => (asmCommand l).map fun i => before ++ [hostWriteOf .cmd (encode i)]

/-- The host accesses of a program (R96); none if any line is an assembly error. -/
def assemble : List AsmLine → Option (List HostInput)
  | [] => some []
  | l :: ls => (assembleLine l).bind fun xs => (assemble ls).map fun ys => xs ++ ys

end Sys2Proof.Machine
end

