-- ==== Sys2Proof/Safety.lean ====
section
/-! DEFINITION. What counts as a good state of the block and as a good run, in the terms claims use: the invariants of
spec/10_state.md R25, R33 to R36, the sets of commands of spec/30_encoding.md R94, the transactions of spec/20_memory.md R61 and
R77, and the ILLEGAL words of spec/30_encoding.md R92, each written from the rule and not from the machine. -/

namespace Sys2Proof.Machine

/-! ## Good states -/

/-- SAMPLE = DECODE6(RAW) (R33). -/
abbrev Regs.SampleCoherent (r : Regs) : Prop := (r.sampleX, r.sampleY, r.sampleZ) = decode6 r.raw

/-- ROLL and PITCH are ORIENT of the sample while DATA_VALID = 1; with DATA_VALID = 0 they are +0.0, and RAW holds its reset value
(R34, R35). -/
abbrev Regs.OrientationCoherent (r : Regs) : Prop :=
  if r.dataValid then (r.roll, r.pitch) = orient r.sampleX r.sampleY r.sampleZ
  else r.roll = 0 ∧ r.pitch = 0 ∧ r.raw = Burst.zero

/-- CODE is never 3 (R25), FLAGS[7] is 0 (R36), and an ILLEGAL command shows no anomaly (R92). -/
abbrev Regs.StatusLegal (r : Regs) : Prop :=
  r.code ≠ 3 ∧ r.flags.getLsbD 7 = false ∧ (r.code = 2 → r.anomaly = false)

/-- A transaction the block may issue (R61). -/
def transactionAllowed : Transaction → Bool
  | .busOpen _ => true
  | .memRead addr n => n == 1 || (addr == 30 && n == 3) || (addr == 50 && n == 6)
  | .memWrite _ bytes => bytes.length == 1

/-- Only the transactions of R61 were ever issued. -/
abbrev Bus.TransactionsAllowed (b : Bus) : Prop := ∀ e ∈ b.history, transactionAllowed e.transaction = true

/-- A transaction in flight is the last one issued, and it has no answer (R67, R68). -/
abbrev Bus.WaitCoherent (b : Bus) : Prop :=
  ∀ t, b.inFlight = some t → ∃ e, b.history.getLast? = some e ∧ e.transaction = t ∧ e.reply = .never

/-- The invariant of the machine. -/
structure State.Inv (s : State) : Prop where
  sample : s.regs.SampleCoherent
  orientation : s.regs.OrientationCoherent
  status : s.regs.StatusLegal
  transactions : s.bus.TransactionsAllowed
  waiting : s.bus.WaitCoherent

/-- The step went on: neither a fault nor a refusal. -/
def outcomeOk : Outcome → Bool
  | .next _ => true
  | .fault _ => false
  | .refused _ => false

/-! ## Sets of commands -/

/-- The bus commands (R94). -/
def isBusCommand : Instr → Bool
  | .init _ _ => false
  | .readId => true
  | .rdreg _ => true
  | .wrreg _ _ => true
  | .powerOn _ => true
  | .getPower => true
  | .getOffsets => true
  | .setOffset _ _ => true
  | .getFormat => true
  | .setFormat _ => true
  | .acquire => true
  | .pipe => false
  | .tenc _ => false
  | .tdec _ _ => false
  | .setThresh _ => true
  | .getThresh _ => true
  | .clearSettings => true
  | .pollInt => true
  | .decodeInt _ => false

/-- The commands that touch no bus (R66, R94). -/
def isPureCommand : Instr → Bool
  | .pipe => true
  | .tenc _ => true
  | .tdec _ _ => true
  | .decodeInt _ => true
  | _ => false

/-- The commands that run the sample pipeline or reset it (R20, column "written by" of RAW, SAMPLE, ROLL, PITCH, DATA_VALID). -/
def writesSample : Instr → Bool
  | .init _ _ => true
  | .acquire => true
  | .pipe => true
  | _ => false

/-- The commands R20 lets write ID. -/
def writesId : Instr → Bool
  | .init _ _ => true
  | .readId => true
  | _ => false

/-- The commands R20 lets write POWER_STATUS (R30). -/
def writesPowerStatus : Instr → Bool
  | .init _ _ => true
  | .powerOn _ => true
  | .getPower => true
  | _ => false

/-- The commands R20 lets write the offsets (R31). -/
def writesOffsets : Instr → Bool
  | .init _ _ => true
  | .getOffsets => true
  | .setOffset _ _ => true
  | _ => false

/-- The commands R20 lets write FLAGS. -/
def writesFlags : Instr → Bool
  | .init _ _ => true
  | .pollInt => true
  | .decodeInt _ => true
  | _ => false

/-- INIT, the only command that writes BOUND and BUS_ADDR (R28). -/
def isInit : Instr → Bool
  | .init _ _ => true
  | _ => false

/-- The commands that may call `anomaly()` (R26). -/
def mayBeAnomalous : Instr → Bool
  | .init _ _ => true
  | .readId => true
  | .powerOn _ => true
  | _ => false

/-- The commands whose rule names a RESULT value (R27 and the rules of 41 to 45). -/
def writesResult : Instr → Bool
  | .init _ _ => true
  | .readId => true
  | .rdreg _ => true
  | .powerOn _ => true
  | .getPower => true
  | .getOffsets => true
  | .getFormat => true
  | .tenc _ => true
  | .tdec _ _ => true
  | .setThresh _ => true
  | .getThresh _ => true
  | .clearSettings => true
  | .pollInt => true
  | .decodeInt _ => true
  | _ => false

/-! ## The transactions of each command (R77) -/

/-- The transactions of a command in order, when every one answers Ok (R77), for a block with ARG0 = `arg0`. An ill-formed term has
none (R92). -/
def expectedTransactions (arg0 : Word) : Instr → List Transaction
  | .init d a => [.busOpen (if d then Config.defaultBusAddr else a), .memRead 0 1, .memRead 45 1]
  | .readId => [.memRead 0 1]
  | .rdreg a => [.memRead a 1]
  | .wrreg a v => [.memWrite a [v]]
  | .powerOn m => [.memWrite 45 [m], .memRead 45 1]
  | .getPower => [.memRead 45 1]
  | .getOffsets => [.memRead 30 3]
  | .setOffset axis v => if axis.toNat ≤ 2 then [.memWrite (30 + axis) [v]] else []
  | .getFormat => [.memRead 49 1]
  | .setFormat v => [.memWrite 49 [v]]
  | .acquire => [.memRead 50 6]
  | .pipe => []
  | .tenc _ => []
  | .tdec _ _ => []
  | .setThresh kind => ((kindOfByte kind).map fun k => Transaction.memWrite (threshAddr k) [thresholdEncode arg0 k]).toList
  | .getThresh kind => ((kindOfByte kind).map fun k => Transaction.memRead (threshAddr k) 1).toList
  | .clearSettings => (kindOrder.map fun k => Transaction.memWrite (threshAddr k) [0]) ++ [.memWrite 49 [0x08]]
  | .pollInt => [.memRead 48 1]
  | .decodeInt _ => []

/-! ## Several transactions in a row -/

/-- The bus after the given transactions to one device, one after another. -/
def Bus.issueAll (b : Bus) (device : BitVec 7) : List Transaction → Bus
  | [] => b
  | t :: ts => (b.issue device t).issueAll device ts

/-- The next transactions all answer Ok. -/
def Bus.allOk (b : Bus) (device : BitVec 7) : List Transaction → Bool
  | [] => true
  | t :: ts =>
    match b.nextAnswer with
    | .ok _ => (b.issue device t).allOk device ts
    | .err => false
    | .never => false

/-! ## ILLEGAL words (R92) -/

/-- The OP values of the opcode map (R86). -/
def assignedOps : List Byte :=
  [0x01, 0x02, 0x03, 0x04, 0x05, 0x06, 0x07, 0x08, 0x09, 0x0A, 0x10, 0x11, 0x20, 0x21, 0x22, 0x23, 0x24, 0x30, 0x31]

/-- The OP values whose field A is marked "0" in R86. -/
def opsWithZeroA : List Byte := [0x02, 0x05, 0x06, 0x07, 0x09, 0x0A, 0x10, 0x11, 0x24, 0x30, 0x31]

/-- The OP values whose field B is marked "0" in R86. -/
def opsWithZeroB : List Byte := [0x01, 0x02, 0x03, 0x06, 0x07, 0x09, 0x10, 0x11, 0x20, 0x22, 0x23, 0x24, 0x30]

/-- The OP values whose field A is a threshold kind (R92 item 4). -/
def opsWithKind : List Byte := [0x20, 0x21, 0x22, 0x23]

/-- The five items of R92, as conditions on the bits of a word. -/
def illegalWord (w : Word) : Bool :=
  let op := w.extractLsb' 24 8
  let a := w.extractLsb' 16 8
  let b := w.extractLsb' 8 8
  let rsv := w.extractLsb' 0 8
  !assignedOps.contains op || rsv != 0 || (opsWithZeroA.contains op && a != 0) || (opsWithZeroB.contains op && b != 0) ||
    (opsWithKind.contains op && decide (8 < a.toNat)) || (op == 0x08 && decide (2 < a.toNat))

/-! ## Values of binary32 and binary64 patterns, for the codec's and the pipeline's laws -/

/-- The rational number an exactly represented value is; infinities and NaNs count as 0 here, and no claim uses them. -/
def fpRat : FpValue → ℚ
  | .nan => 0
  | .inf _ => 0
  | .finite neg sig exp => (if neg then -1 else 1) * (sig : ℚ) * (2 : ℚ) ^ exp

/-- Half a unit above the largest finite value: a magnitude from here on rounds to an infinity (R11, IEEE 754). -/
noncomputable def FpFormat.overflowAt (f : FpFormat) : ℝ :=
  ((2 : ℝ) ^ (f.fracBits + 1) - 1 / 2) * (2 : ℝ) ^ (f.minExp + (f.maxField - 2 : Nat))

/-- `bits` is the real value `v` rounded by roundTiesToEven (R11): with the sign `neg`, no finite value of the format is nearer, and
one that ties with another is even; a magnitude past the largest finite value's last half unit is an infinity. -/
def FpFormat.Rounds (f : FpFormat) (neg : Bool) (v : ℝ) (bits : Nat) : Prop :=
  (f.overflowAt ≤ |v| → f.unpack bits = .inf neg) ∧
  (|v| < f.overflowAt → ∃ sig exp, f.unpack bits = .finite neg sig exp ∧
    ∀ other neg' sig' exp', f.unpack other = .finite neg' sig' exp' →
      |(fpRat (.finite neg sig exp) : ℝ) - v| ≤ |(fpRat (.finite neg' sig' exp') : ℝ) - v| ∧
      (|(fpRat (.finite neg sig exp) : ℝ) - v| = |(fpRat (.finite neg' sig' exp') : ℝ) - v| →
        fpRat (.finite neg' sig' exp') ≠ fpRat (.finite neg sig exp) → bits % 2 = 0))

/-- The kinds whose scale is an exact binary fraction (R40, R165). -/
def exactScale : Kind → Bool
  | .threshTap => true
  | .dur => false
  | .latent => false
  | .window => false
  | .threshAct => true
  | .threshInact => true
  | .threshFf => true
  | .timeFf => false
  | .timeInact => true

/-- The codes that lose one in the round trip of the inexact kinds (R165 item 1). -/
def driftingCodes : List Byte :=
  [15, 27, 30, 54, 60, 107, 108, 120, 121, 213, 214, 215, 216, 217, 239, 240, 241, 242, 243]

end Sys2Proof.Machine
end

