-- ==== Sys2Proof/Certificates/Slice0/Obligations.lean ====
section
/-! DEFINITION. The statements for the provers, each formalising a rule of spec/ over every state or every operand. A result
statement gives the WHOLE next state: what it does not name is as before, so it is the command's frame too. The transport's
answer is a hypothesis `s.bus.nextAnswer = …`, whether it comes from the determined answers or from a free draw. -/

open Sys2Proof Sys2Proof.Machine

/-! ## Encoding -/

/-- R81, R86, R89: the decoder reads back every field of every well-formed command. -/
def Obligations.DecodeOfEncodeIsTheCommand : Prop :=
  ∀ i : Instr, i.wellFormed = true → decode (encode i) = .ok i

/-- R81, R92: a word that decodes is the encoding of a well-formed command, so no bit of it is ignored. -/
def Obligations.EncodeOfDecodeIsTheWord : Prop :=
  ∀ (w : Word) (i : Instr), decode w = .ok i → i.wellFormed = true ∧ encode i = w

/-- R87: a word spells a row's command exactly when `w & mask = match` and the row's constraint hold; no two rows match one
word. -/
def Obligations.DecoderFollowsTheMatchAndMaskTable : Prop :=
  (∀ (w : Word) (r : OpcodeRow), r ∈ opcodeRows →
    ((w &&& r.mask = r.pattern ∧ (w.extractLsb' 16 8).toNat ≤ r.aMax) ↔ ∃ i, decode w = .ok i ∧ i.mnemonic = r.mnemonic)) ∧
  (∀ (w : Word) (r₁ r₂ : OpcodeRow), r₁ ∈ opcodeRows → r₂ ∈ opcodeRows →
    w &&& r₁.mask = r₁.pattern → w &&& r₂.mask = r₂.pattern → r₁ = r₂)

/-- R92, R98: the decoder rejects exactly the words of R92, and such a word writes CODE 2 and ANOMALY 0 and nothing else. -/
def Obligations.IllegalWordsChangeOnlyCodeAndAnomaly : Prop :=
  (∀ w : Word, illegalWord w = true ↔ ∃ e, decode w = .error e) ∧
  (∀ (w : Word) (s : State), illegalWord w = true →
    runWord w s = .next { s with regs := { s.regs with code := 2, anomaly := false } })

/-- R99: the encoding examples of the spec. -/
def Obligations.SpecEncodingExamplesDecode : Prop :=
  decode 0x01530000 = .ok (.init false 0x53) ∧ (∃ a, decode 0x01800000 = .ok (.init true a)) ∧
  decode 0x03000000 = .ok (.rdreg 0) ∧ decode 0x042D0800 = .ok (.wrreg 45 0x08) ∧
  decode 0x0801FE00 = .ok (.setOffset 1 0xFE) ∧ decode 0x21070300 = .ok (.tdec 7 3) ∧
  decode 0x31006000 = .ok (.decodeInt 0x60) ∧ decode 0x10000000 = .ok .acquire ∧
  decode 0x00000000 = .error .unknownOpcode ∧ decode 0x10000001 = .error .reservedNonzero ∧
  decode 0x20090000 = .error .kindOutOfRange ∧ decode 0x08030100 = .error .axisOutOfRange ∧
  decode 0x02010000 = .error .fieldANonzero

/-- R96, R97: what every line assembles to, words written out as numbers from the fields of R81 and the opcodes of R86; out of range
is an assembly error (none). A kind or axis name is its number. A line that is no directive writes ARG0 and ARG1 at most, and then
one word to CMD that is never ILLEGAL. The bounds R96 and R97 do not state (PIPEB's operands, the bytes of field B, HWRITE's value, a
zero denominator) are the model's choice (assumption log 14). -/
def Obligations.AssemblerLinesExpandAsListed : Prop :=
  let cmd (n : Nat) : HostInput := .write .word 0x00 (BitVec.ofNat 32 n)
  (assembleLine (.init .default) = some [cmd 0x01800000] ∧ assembleLine .readId = some [cmd 0x02000000] ∧
    assembleLine .getPower = some [cmd 0x06000000] ∧ assembleLine .getOffsets = some [cmd 0x07000000] ∧
    assembleLine .getFormat = some [cmd 0x09000000] ∧ assembleLine .acquire = some [cmd 0x10000000] ∧
    assembleLine .pipe = some [cmd 0x11000000] ∧ assembleLine .clearSettings = some [cmd 0x24000000] ∧
    assembleLine .pollInt = some [cmd 0x30000000]) ∧
  (∀ n, assembleLine (.init (.address n)) = if n ≤ 127 then some [cmd (0x01000000 + n * 2 ^ 16)] else none) ∧
  (∀ a, assembleLine (.rdreg a) = if a ≤ 255 then some [cmd (0x03000000 + a * 2 ^ 16)] else none) ∧
  (∀ a v, assembleLine (.wrreg a v) =
    if a ≤ 255 ∧ v ≤ 255 then some [cmd (0x04000000 + a * 2 ^ 16 + v * 2 ^ 8)] else none) ∧
  (∀ v, assembleLine (.powerOn v) = (if v ≤ 255 then some [cmd (0x05000000 + v * 2 ^ 8)] else none) ∧
    assembleLine (.wrpower v) = assembleLine (.powerOn v) ∧
    assembleLine (.setFormat v) = (if v ≤ 255 then some [cmd (0x0A000000 + v * 2 ^ 8)] else none) ∧
    assembleLine (.decodeInt v) = (if v ≤ 255 then some [cmd (0x31000000 + v * 2 ^ 8)] else none)) ∧
  (∀ a v, assembleLine (.setOffset (.number a) v) =
    if a ≤ 2 ∧ v ≤ 255 then some [cmd (0x08000000 + a * 2 ^ 16 + v * 2 ^ 8)] else none) ∧
  (∀ v, assembleLine (.setOffset (.name .x) v) = assembleLine (.setOffset (.number 0) v) ∧
    assembleLine (.setOffset (.name .y) v) = assembleLine (.setOffset (.number 1) v) ∧
    assembleLine (.setOffset (.name .z) v) = assembleLine (.setOffset (.number 2) v)) ∧
  (∀ k, assembleLine (.tenc (.number k)) = (if k ≤ 8 then some [cmd (0x20000000 + k * 2 ^ 16)] else none) ∧
    assembleLine (.setThresh (.number k)) = (if k ≤ 8 then some [cmd (0x22000000 + k * 2 ^ 16)] else none) ∧
    assembleLine (.getThresh (.number k)) = (if k ≤ 8 then some [cmd (0x23000000 + k * 2 ^ 16)] else none)) ∧
  (∀ k c, assembleLine (.tdec (.number k) c) =
    if k ≤ 8 ∧ c ≤ 255 then some [cmd (0x21000000 + k * 2 ^ 16 + c * 2 ^ 8)] else none) ∧
  (∀ (k : Kind) (n : Nat) (c : Nat), kindOrder[n]? = some k →
    assembleLine (.tenc (.name k)) = assembleLine (.tenc (.number n)) ∧
    assembleLine (.tdec (.name k) c) = assembleLine (.tdec (.number n) c) ∧
    assembleLine (.setThresh (.name k)) = assembleLine (.setThresh (.number n)) ∧
    assembleLine (.getThresh (.name k)) = assembleLine (.getThresh (.number n))) ∧
  (∀ (k : KindOperand) (f : Decimal),
    assembleLine (.enc k f) = (if f.den = 0 then none else (assembleLine (.tenc k)).map fun xs =>
      .write .word 0x04 (BitVec.ofNat 32 (binary32.ofRatio f.neg f.num f.den)) :: xs) ∧
    assembleLine (.setth k f) = (if f.den = 0 then none else (assembleLine (.setThresh k)).map fun xs =>
      .write .word 0x04 (BitVec.ofNat 32 (binary32.ofRatio f.neg f.num f.den)) :: xs)) ∧
  assembleLine (.setth (.name .dur) ⟨false, 3, 1000⟩) = some [.write .word 0x04 0x3B449BA6, cmd 0x22010000] ∧
  (∀ b0 b1 b2 b3 b4 b5, assembleLine (.pipeb b0 b1 b2 b3 b4 b5) =
    if b0 ≤ 255 ∧ b1 ≤ 255 ∧ b2 ≤ 255 ∧ b3 ≤ 255 ∧ b4 ≤ 255 ∧ b5 ≤ 255 then
      some [.write .word 0x04 (BitVec.ofNat 32 (b0 + b1 * 2 ^ 8 + b2 * 2 ^ 16 + b3 * 2 ^ 24)),
        .write .word 0x08 (BitVec.ofNat 32 (b4 + b5 * 2 ^ 8)), cmd 0x11000000]
    else none) ∧
  (∀ x y z : Int, assembleLine (.pipes x y z) =
    if (-32768 ≤ x ∧ x ≤ 32767) ∧ (-32768 ≤ y ∧ y ≤ 32767) ∧ (-32768 ≤ z ∧ z ≤ 32767) then
      assembleLine (.pipeb (x % 65536 % 256).toNat (x % 65536 / 256).toNat (y % 65536 % 256).toNat (y % 65536 / 256).toNat
        (z % 65536 % 256).toNat (z % 65536 / 256).toNat)
    else none) ∧
  (∀ (reg : HostReg) (v : Nat),
    assembleLine (.hwrite reg v) =
      (if v < 2 ^ 32 then some [.write .word (hostRegOffset reg) (BitVec.ofNat 32 v)] else none) ∧
    assembleLine (.hread reg) = some [.read .word (hostRegOffset reg)]) ∧
  (∀ (l : AsmLine) (xs : List HostInput), l.isDirective = false → assembleLine l = some xs →
    ∃ (before : List HostInput) (i : Instr), xs = before ++ [.write .word 0x00 (encode i)] ∧ asmCommand l = some i ∧
      decode (encode i) = .ok i ∧ illegalWord (encode i) = false ∧
      ∀ x ∈ before, ∃ v, x = .write .word 0x04 v ∨ x = .write .word 0x08 v)

/-! ## The step and the host window -/

/-- R22: a host write of `w` to CMD stores `w`, then executes it, ILLEGAL or not; a read of CMD returns the last value written; no
command changes CMD. -/
def Obligations.CmdWriteStoresThenExecutes : Prop :=
  (∀ (s : State) (w : Word) (rest : List HostInput) (i : Instr),
    s.bus.inFlight = none → s.host.pending = .write .word 0x00 w :: rest → decode w = .ok i →
    step s = exec i { s with regs := { s.regs with cmd := w }, host := { s.host with pending := rest } }) ∧
  (∀ (s : State) (w : Word) (rest : List HostInput) (e : DecodeError),
    s.bus.inFlight = none → s.host.pending = .write .word 0x00 w :: rest → decode w = .error e →
    step s = .next { s with
      regs := { s.regs with cmd := w, code := 2, anomaly := false }, host := { s.host with pending := rest } }) ∧
  (∀ (i : Instr) (s t : State), exec i s = .next t → t.regs.cmd = s.regs.cmd) ∧
  (∀ r : Regs, hostRead r 0x00 = r.cmd)

/-- R93: ILLEGAL is decided first, then BOUND for a bus command, then the command's rule runs. -/
def Obligations.DecodeOrderIsIllegalThenNotBoundThenRun : Prop :=
  ∀ (s : State) (w : Word) (rest : List HostInput),
    s.bus.inFlight = none → s.host.pending = .write .word 0x00 w :: rest →
    (illegalWord w = true → step s = .next { s with
      regs := { s.regs with cmd := w, code := 2, anomaly := false }, host := { s.host with pending := rest } }) ∧
    (∀ i, decode w = .ok i → isBusCommand i = true → s.regs.bound = false → step s = .next { s with
      regs := { s.regs with cmd := w, code := 1, anomaly := false }, host := { s.host with pending := rest } }) ∧
    (∀ i, decode w = .ok i → (isBusCommand i = true → s.regs.bound = true) →
      step s = exec i { s with regs := { s.regs with cmd := w }, host := { s.host with pending := rest } })

/-- Model's choice (assumption log 4): a command word placed by `withFetchWord` is run by the very next step, from any state. -/
def Obligations.PlacedWordIsRunByTheNextStep : Prop :=
  ∀ (s : State) (w : Word) (i : Instr), decode w = .ok i →
    step (s.withFetchWord 32 w.toNat) =
      exec i { s with regs := { s.regs with cmd := w }, bus := { s.bus with inFlight := none } }

/-- R55, R57, R69: a host write to a read-only register or a reserved offset is ignored; a host read of an aligned offset is answered
with the word the window shows there, which is zero at a reserved offset, and changes nothing in the block. -/
def Obligations.ReadOnlyAndReservedOffsetsIgnoreWrites : Prop :=
  (∀ (s : State) (off : Byte) (v : Word) (rest : List HostInput),
    s.bus.inFlight = none → s.host.pending = .write .word off v :: rest → off.toNat % 4 = 0 → 0x0C ≤ off.toNat →
    step s = .next { s with host := { s.host with pending := rest } }) ∧
  (∀ (s : State) (off : Byte) (rest : List HostInput),
    s.bus.inFlight = none → s.host.pending = .read .word off :: rest → off.toNat % 4 = 0 →
    step s = .next { s with host := { pending := rest, reads := s.host.reads ++ [hostRead s.regs off] } }) ∧
  (∀ (r : Regs) (off : Byte), 0x48 ≤ off.toNat → hostRead r off = 0)

/-- R20, R23, R55: a host write of ARG0 or ARG1 stores the word and runs no command. -/
def Obligations.HostWritesOfArgumentsAreStored : Prop :=
  ∀ (s : State) (v : Word) (rest : List HostInput), s.bus.inFlight = none →
    (s.host.pending = .write .word 0x04 v :: rest → step s = .next { s with
      regs := { s.regs with arg0 := v }, host := { s.host with pending := rest } }) ∧
    (s.host.pending = .write .word 0x08 v :: rest → step s = .next { s with
      regs := { s.regs with arg1 := v }, host := { s.host with pending := rest } })

/-- R56: the window accepts only aligned 32-bit accesses; every other access is refused, and no aligned 32-bit access is. -/
def Obligations.WindowAcceptsOnlyAlignedWords : Prop :=
  ∀ (s : State) (width : HostWidth) (off : Byte) (v : Word) (rest : List HostInput), s.bus.inFlight = none →
    (s.host.pending = .read width off :: rest ∨ s.host.pending = .write width off v :: rest) →
    ((width = .word ∧ off.toNat % 4 = 0) → ∃ t, step s = .next t) ∧
    (¬(width = .word ∧ off.toNat % 4 = 0) → step s = .refused .hostAccessNotAlignedWord)

/-- R24: STATUS is a view of CODE, ANOMALY, BOUND and DATA_VALID, zero above. -/
def Obligations.StatusIsAViewOfFourRegisters : Prop :=
  ∀ r : Regs, (hostRead r 0x0C).toNat =
    r.code.toNat + 4 * r.anomaly.toNat + 8 * r.bound.toNat + 16 * r.dataValid.toNat

/-- R55, R58, R60: what a host read of each named register returns, as numbers. -/
def Obligations.WindowPacksTheRegisters : Prop :=
  ∀ r : Regs,
    hostRead r 0x00 = r.cmd ∧ hostRead r 0x04 = r.arg0 ∧ hostRead r 0x08 = r.arg1 ∧ hostRead r 0x10 = r.result ∧
    (hostRead r 0x14).toNat = r.id.toNat ∧ (hostRead r 0x18).toNat = r.powerStatus.toNat ∧
    (hostRead r 0x1C).toNat = r.ofsX.toNat + 2 ^ 8 * r.ofsY.toNat + 2 ^ 16 * r.ofsZ.toNat ∧
    (hostRead r 0x20).toNat =
      r.raw.b0.toNat + 2 ^ 8 * r.raw.b1.toNat + 2 ^ 16 * r.raw.b2.toNat + 2 ^ 24 * r.raw.b3.toNat ∧
    (hostRead r 0x24).toNat = r.raw.b4.toNat + 2 ^ 8 * r.raw.b5.toNat ∧
    (hostRead r 0x28).toNat = r.sampleX.toNat + 2 ^ 16 * r.sampleY.toNat ∧
    (hostRead r 0x2C).toNat = r.sampleZ.toNat ∧
    (hostRead r 0x30).toNat + 2 ^ 32 * (hostRead r 0x34).toNat = r.roll.toNat ∧
    (hostRead r 0x38).toNat + 2 ^ 32 * (hostRead r 0x3C).toNat = r.pitch.toNat ∧
    (hostRead r 0x40).toNat = r.flags.toNat ∧ (hostRead r 0x44).toNat = r.busAddr.toNat

/-! ## Reset, waiting, being stuck -/

/-- R250: the value of every register after reset, and that SAMPLE = DECODE6(RAW) there. -/
def Obligations.ResetStateHoldsTheListedValues : Prop :=
  State.reset.regs.cmd = 0 ∧ State.reset.regs.arg0 = 0 ∧ State.reset.regs.arg1 = 0 ∧ State.reset.regs.result = 0 ∧
  State.reset.regs.code = 0 ∧ State.reset.regs.anomaly = false ∧ State.reset.regs.bound = false ∧
  State.reset.regs.dataValid = false ∧ State.reset.regs.id = 0 ∧ State.reset.regs.powerStatus = 0 ∧
  State.reset.regs.ofsX = 0 ∧ State.reset.regs.ofsY = 0 ∧ State.reset.regs.ofsZ = 0 ∧
  State.reset.regs.raw = ⟨0, 0, 0, 0, 0, 0⟩ ∧ State.reset.regs.sampleX = 0 ∧ State.reset.regs.sampleY = 0 ∧
  State.reset.regs.sampleZ = 0 ∧ State.reset.regs.roll = 0 ∧ State.reset.regs.pitch = 0 ∧ State.reset.regs.flags = 0 ∧
  State.reset.regs.busAddr = 0 ∧
  (State.reset.regs.sampleX, State.reset.regs.sampleY, State.reset.regs.sampleZ) = decode6 State.reset.regs.raw

/-- R251, R252, R263: reset, at any time between two inputs or while a transaction is in flight (assumption log 3), gives every register its reset value, abandons the transaction in flight, and issues no
transaction. -/
def Obligations.ResetInputAppliesTheResetState : Prop :=
  ∀ (s : State) (rest : List HostInput), s.host.pending = .reset :: rest →
    step s = .next { regs := State.reset.regs, bus := { s.bus with inFlight := none }, host := { s.host with pending := rest } }

/-- R67, R253, R263: a block waiting for a transaction has no step but reset; a block waiting for the host changes nothing. That
being stuck is a fault of `step`, and waiting a step that changes nothing, is the model's choice (assumption log 3 and 1). -/
def Obligations.WaitingForTheTransportEndsOnlyByReset : Prop :=
  (∀ (s : State) (t : Transaction), s.bus.inFlight = some t → (∀ rest, s.host.pending ≠ .reset :: rest) →
    step s = .fault .transactionUnanswered) ∧
  (∀ s : State, s.bus.inFlight = none → s.host.pending = [] → step s = .next s)

/-- R12, R14, R251: a command whose transaction never answers has committed none of its register writes. The model's choice
(assumption log 3), DEDUCED from the discarding of R251. -/
def Obligations.UnansweredTransactionCommitsNothing : Prop :=
  ∀ (i : Instr) (s t : State), s.bus.inFlight = none → exec i s = .next t → t.bus.inFlight ≠ none → t.regs = s.regs

/-- R52, R62, R68: a transaction gets the oldest determined answer, or a fresh free draw when there is none, and uses it up; it is
recorded with its device and its reply, an Ok with exactly the bytes it asked for; it is in flight only if it never answers. The
history and the two sources of answers are the model's own (assumption log 2 and 3). -/
def Obligations.TransactionIsRecordedWithItsReply : Prop :=
  ∀ (b : Bus) (dev : BitVec 7) (t : Transaction),
    let n := match t with
      | .busOpen _ => 0
      | .memRead _ n => n
      | .memWrite _ _ => 0
    (∀ a rest, b.answers = a :: rest →
      b.nextAnswer = a ∧ (b.issue dev t).answers = rest ∧ (b.issue dev t).drawn = b.drawn) ∧
    (b.answers = [] → b.nextAnswer = Config.transportAnswer b.drawn ∧ (b.issue dev t).answers = [] ∧
      (b.issue dev t).drawn = b.drawn + 1) ∧
    (∃ e, (b.issue dev t).history = b.history ++ [e] ∧ e.device = dev ∧ e.transaction = t ∧
      (∀ d, b.nextAnswer = .ok d → ∃ bytes, e.reply = .ok bytes ∧ bytes = [d.b0, d.b1, d.b2, d.b3, d.b4, d.b5].take n ∧
        (n ≤ 6 → bytes.length = n)) ∧
      (b.nextAnswer = .err → e.reply = .err) ∧ (b.nextAnswer = .never → e.reply = .never)) ∧
    (b.nextAnswer = .never → (b.issue dev t).inFlight = some t) ∧
    (b.nextAnswer ≠ .never → (b.issue dev t).inFlight = none)

/-! ## Rules of the whole machine -/

/-- R220: no command traps: every command, from every state, answers a next state. -/
def Obligations.EveryCommandAnswersANextState : Prop :=
  ∀ (i : Instr) (s : State), ∃ t, exec i s = .next t

/-- R94: with BOUND = 0 a bus command issues no transaction, writes CODE 1 and ANOMALY 0 and changes nothing else; INIT opens the
bus whatever BOUND is; PIPE, TENC, TDEC and DECODE_INT end OK whatever BOUND is and touch no bus. -/
def Obligations.UnboundBusCommandsEndInBusError : Prop :=
  (∀ (i : Instr) (s : State), i.wellFormed = true → isBusCommand i = true → s.regs.bound = false →
    exec i s = .next { s with regs := { s.regs with code := 1, anomaly := false } }) ∧
  (∀ (d : Bool) (a : BitVec 7) (s : State), ∃ t e es, exec (.init d a) s = .next t ∧
    t.bus.history = s.bus.history ++ e :: es ∧ e.transaction = .busOpen (if d then Config.defaultBusAddr else a)) ∧
  (∀ (i : Instr) (s : State), i.wellFormed = true → isPureCommand i = true →
    ∃ t, exec i s = .next t ∧ t.bus = s.bus ∧ t.regs.code = 0 ∧ t.regs.anomaly = false)

/-- R66: the pure commands are idempotent on block state. -/
def Obligations.PureCommandsAreIdempotent : Prop :=
  ∀ (i : Instr) (s t : State), isPureCommand i = true → exec i s = .next t → exec i t = .next t

/-- R20 (column "written by"), R22, R23, R28, R30 to R32, R35, R44: every register is written only by the commands R20 lists for it,
and no command touches the host's side. -/
def Obligations.RegistersAreWrittenOnlyByTheirCommands : Prop :=
  ∀ (i : Instr) (s t : State), exec i s = .next t →
    t.host = s.host ∧ t.regs.cmd = s.regs.cmd ∧ t.regs.arg0 = s.regs.arg0 ∧ t.regs.arg1 = s.regs.arg1 ∧
    (isInit i = false → t.regs.bound = s.regs.bound ∧ t.regs.busAddr = s.regs.busAddr) ∧
    (writesSample i = false →
      t.regs.dataValid = s.regs.dataValid ∧ t.regs.raw = s.regs.raw ∧ t.regs.sampleX = s.regs.sampleX ∧
      t.regs.sampleY = s.regs.sampleY ∧ t.regs.sampleZ = s.regs.sampleZ ∧ t.regs.roll = s.regs.roll ∧
      t.regs.pitch = s.regs.pitch) ∧
    (writesId i = false → t.regs.id = s.regs.id) ∧
    (writesPowerStatus i = false → t.regs.powerStatus = s.regs.powerStatus) ∧
    (writesOffsets i = false → t.regs.ofsX = s.regs.ofsX ∧ t.regs.ofsY = s.regs.ofsY ∧ t.regs.ofsZ = s.regs.ofsZ) ∧
    (writesFlags i = false → t.regs.flags = s.regs.flags)

/-- R27: RESULT changes only when a command whose rule names a value ends OK, or by CLEAR_SETTINGS. -/
def Obligations.ResultChangesOnlyOnOkOrByClearSettings : Prop :=
  ∀ (i : Instr) (s t : State), exec i s = .next t → t.regs.result ≠ s.regs.result →
    writesResult i = true ∧ (t.regs.code = 0 ∨ i = .clearSettings)

/-- R26: after a completed command ANOMALY is 1 only for INIT, READ_ID or POWER_ON. -/
def Obligations.AnomalyIsRaisedOnlyByThreeCommands : Prop :=
  ∀ (i : Instr) (s t : State), exec i s = .next t → t.bus.inFlight = none → t.regs.anomaly = true → mayBeAnomalous i = true

/-- R46: what a completed command leaves does not depend on the CODE and ANOMALY it found. -/
def Obligations.CommandsIgnoreThePreviousOutcome : Prop :=
  ∀ (i : Instr) (s t : State) (c : BitVec 2) (a : Bool), exec i s = .next t → t.bus.inFlight = none →
    exec i { s with regs := { s.regs with code := c, anomaly := a } } = .next t

/-- R23, R88: only TENC, SET_THRESH and PIPE read ARG0, only PIPE reads ARG1, and it ignores ARG1[31:16]. -/
def Obligations.ArgumentsAreReadOnlyByTheirCommands : Prop :=
  (∀ (i : Instr) (s t : State) (x y : Word), exec i s = .next t →
    i ≠ .pipe → (∀ k, i ≠ .tenc k) → (∀ k, i ≠ .setThresh k) →
    exec i { s with regs := { s.regs with arg0 := x, arg1 := y } } =
      .next { t with regs := { t.regs with arg0 := x, arg1 := y } }) ∧
  (∀ (i : Instr) (s t : State) (y : Word), exec i s = .next t →
    (i = .pipe → y.extractLsb' 0 16 = s.regs.arg1.extractLsb' 0 16) →
    exec i { s with regs := { s.regs with arg1 := y } } = .next { t with regs := { t.regs with arg1 := y } })

/-- R61: the block issues only the listed transactions: an open, a one-byte read, a one-byte write, the 3-byte read at 30 and the
6-byte read at 50. -/
def Obligations.OnlyTheListedTransactionsAreIssued : Prop :=
  ∀ (i : Instr) (s t : State), exec i s = .next t →
    ∃ es : List BusEvent, t.bus.history = s.bus.history ++ es ∧ ∀ e ∈ es,
      (∃ a, e.transaction = .busOpen a) ∨ (∃ a, e.transaction = .memRead a 1) ∨ (∃ a v, e.transaction = .memWrite a [v]) ∨
      e.transaction = .memRead 30 3 ∨ e.transaction = .memRead 50 6

/-- R101: only the last transaction of a command can answer Err, and then the command has ended with BUS_ERROR. -/
def Obligations.FirstErrEndsTheCommand : Prop :=
  ∀ (i : Instr) (s t : State), exec i s = .next t →
    ∃ es : List BusEvent, t.bus.history = s.bus.history ++ es ∧ (∀ e ∈ es.dropLast, ∃ bytes, e.reply = .ok bytes) ∧
      (∀ e, es.getLast? = some e → e.reply = .err → t.regs.code = 1)

/-- R77: the transactions of a command are those of the table, in its order: all of them when every one answers Ok, and otherwise
those up to the first that does not; none for a bus command with BOUND = 0. -/
def Obligations.TransactionsFollowTheTable : Prop :=
  ∀ (i : Instr) (s t : State), exec i s = .next t →
    ∃ es : List BusEvent, t.bus.history = s.bus.history ++ es ∧
      es.map (·.transaction) <+: expectedTransactions s.regs.arg0 i ∧
      (∀ e ∈ es.dropLast, ∃ bytes, e.reply = .ok bytes) ∧
      (isBusCommand i = true → s.regs.bound = false → es = []) ∧
      ((isBusCommand i = true → s.regs.bound = true) → (∀ e ∈ es, ∃ bytes, e.reply = .ok bytes) →
        es.map (·.transaction) = expectedTransactions s.regs.arg0 i)

/-! ## The power and identity commands -/

/-- R200, R201: INIT. Open Err; id read Err; power read Err; all Ok. -/
def Obligations.InitBindsResetsTheMirrorAndReadsIdAndPower : Prop :=
  ∀ (d : Bool) (a : BitVec 7) (s : State),
    let a7 := if d then Config.defaultBusAddr else a
    let b1 := s.bus.issue a7 (.busOpen a7)
    let b2 := b1.issue a7 (.memRead 0 1)
    let b3 := b2.issue a7 (.memRead 45 1)
    let fresh : Regs := { State.reset.regs with
      cmd := s.regs.cmd, arg0 := s.regs.arg0, arg1 := s.regs.arg1, result := s.regs.result, bound := true, busAddr := a7 }
    (s.bus.nextAnswer = .err →
      exec (.init d a) s =
        .next { s with regs := { s.regs with bound := false, anomaly := false, code := 1 }, bus := b1 }) ∧
    (∀ o, s.bus.nextAnswer = .ok o → b1.nextAnswer = .err →
      exec (.init d a) s = .next { s with regs := { fresh with code := 1 }, bus := b2 }) ∧
    (∀ o n, s.bus.nextAnswer = .ok o → b1.nextAnswer = .ok n → b2.nextAnswer = .err →
      exec (.init d a) s = .next { s with
        regs := { fresh with id := n.b0, anomaly := decide (n.b0 = 0), code := 1 }, bus := b3 }) ∧
    (∀ o n p, s.bus.nextAnswer = .ok o → b1.nextAnswer = .ok n → b2.nextAnswer = .ok p →
      exec (.init d a) s = .next { s with
        regs := { fresh with
          id := n.b0, anomaly := decide (n.b0 = 0), powerStatus := p.b0, result := n.b0.setWidth 32, code := 0 }
        bus := b3 })

/-- R203: READ_ID returns the byte at DEVID; a zero id is anomalous; an Err keeps ID and RESULT. -/
def Obligations.ReadIdReturnsTheIdentifier : Prop :=
  ∀ s : State, s.regs.bound = true →
    (∀ d, s.bus.nextAnswer = .ok d → exec .readId s = .next { s with
      regs := { s.regs with id := d.b0, result := d.b0.setWidth 32, anomaly := decide (d.b0 = 0), code := 0 }
      bus := s.bus.issue s.regs.busAddr (.memRead 0 1) }) ∧
    (s.bus.nextAnswer = .err → exec .readId s = .next { s with
      regs := { s.regs with anomaly := false, code := 1 }
      bus := s.bus.issue s.regs.busAddr (.memRead 0 1) })

/-- R204: POWER_ON writes POWER_CTL, reads it back and flags a mismatch; write Err; read-back Err. -/
def Obligations.PowerOnWritesAndReadsBack : Prop :=
  ∀ (m : Byte) (s : State), s.regs.bound = true →
    let b1 := s.bus.issue s.regs.busAddr (.memWrite 45 [m])
    let b2 := b1.issue s.regs.busAddr (.memRead 45 1)
    (s.bus.nextAnswer = .err → exec (.powerOn m) s =
      .next { s with regs := { s.regs with anomaly := false, code := 1 }, bus := b1 }) ∧
    (∀ o, s.bus.nextAnswer = .ok o → b1.nextAnswer = .err → exec (.powerOn m) s =
      .next { s with regs := { s.regs with powerStatus := m, anomaly := false, code := 1 }, bus := b2 }) ∧
    (∀ o d, s.bus.nextAnswer = .ok o → b1.nextAnswer = .ok d → exec (.powerOn m) s = .next { s with
      regs := { s.regs with
        powerStatus := d.b0, anomaly := decide (d.b0 ≠ m), result := d.b0.setWidth 32, code := 0 }
      bus := b2 })

/-- R205: GET_POWER puts the byte at POWER_CTL in POWER_STATUS and RESULT. -/
def Obligations.GetPowerMirrorsThePowerStatus : Prop :=
  ∀ s : State, s.regs.bound = true →
    (∀ d, s.bus.nextAnswer = .ok d → exec .getPower s = .next { s with
      regs := { s.regs with powerStatus := d.b0, result := d.b0.setWidth 32, anomaly := false, code := 0 }
      bus := s.bus.issue s.regs.busAddr (.memRead 45 1) }) ∧
    (s.bus.nextAnswer = .err → exec .getPower s = .next { s with
      regs := { s.regs with anomaly := false, code := 1 }
      bus := s.bus.issue s.regs.busAddr (.memRead 45 1) })

/-! ## The register access commands -/

/-- R102: RDREG returns the byte read and updates no mirror, whatever the address. -/
def Obligations.RdregReturnsTheByteRead : Prop :=
  ∀ (a : Byte) (s : State), s.regs.bound = true →
    (∀ d, s.bus.nextAnswer = .ok d → exec (.rdreg a) s = .next { s with
      regs := { s.regs with result := d.b0.setWidth 32, anomaly := false, code := 0 }
      bus := s.bus.issue s.regs.busAddr (.memRead a 1) }) ∧
    (s.bus.nextAnswer = .err → exec (.rdreg a) s = .next { s with
      regs := { s.regs with anomaly := false, code := 1 }
      bus := s.bus.issue s.regs.busAddr (.memRead a 1) })

/-- R103: WRREG writes one byte and updates neither a mirror nor RESULT. -/
def Obligations.WrregWritesOneByte : Prop :=
  ∀ (a v : Byte) (s : State), s.regs.bound = true →
    (∀ d, s.bus.nextAnswer = .ok d → exec (.wrreg a v) s = .next { s with
      regs := { s.regs with anomaly := false, code := 0 }
      bus := s.bus.issue s.regs.busAddr (.memWrite a [v]) }) ∧
    (s.bus.nextAnswer = .err → exec (.wrreg a v) s = .next { s with
      regs := { s.regs with anomaly := false, code := 1 }
      bus := s.bus.issue s.regs.busAddr (.memWrite a [v]) })

/-- R104: GET_OFFSETS takes all three offsets from one 3-byte read, or none. -/
def Obligations.GetOffsetsReadsThreeBytesAtOnce : Prop :=
  ∀ s : State, s.regs.bound = true →
    (∀ d, s.bus.nextAnswer = .ok d → ∃ r : Word,
      r.toNat = d.b0.toNat + 2 ^ 8 * d.b1.toNat + 2 ^ 16 * d.b2.toNat ∧
      exec .getOffsets s = .next { s with
        regs := { s.regs with ofsX := d.b0, ofsY := d.b1, ofsZ := d.b2, result := r, anomaly := false, code := 0 }
        bus := s.bus.issue s.regs.busAddr (.memRead 30 3) }) ∧
    (s.bus.nextAnswer = .err → exec .getOffsets s = .next { s with
      regs := { s.regs with anomaly := false, code := 1 }
      bus := s.bus.issue s.regs.busAddr (.memRead 30 3) })

/-- R105: SET_OFFSET writes the register of its axis and that axis' mirror alone. -/
def Obligations.SetOffsetWritesItsAxisAlone : Prop :=
  ∀ (axis v : Byte) (s : State), axis.toNat ≤ 2 → s.regs.bound = true →
    (∀ d, s.bus.nextAnswer = .ok d → exec (.setOffset axis v) s = .next { s with
      regs := { s.regs with
        ofsX := if axis = 0 then v else s.regs.ofsX
        ofsY := if axis = 1 then v else s.regs.ofsY
        ofsZ := if axis = 2 then v else s.regs.ofsZ
        anomaly := false, code := 0 }
      bus := s.bus.issue s.regs.busAddr (.memWrite (30 + axis) [v]) }) ∧
    (s.bus.nextAnswer = .err → exec (.setOffset axis v) s = .next { s with
      regs := { s.regs with anomaly := false, code := 1 }
      bus := s.bus.issue s.regs.busAddr (.memWrite (30 + axis) [v]) })

/-- R106, R107: GET_FORMAT returns the DATA_FORMAT byte, SET_FORMAT writes it; no mirror. -/
def Obligations.FormatRegisterIsReadAndWrittenUninterpreted : Prop :=
  ∀ (v : Byte) (s : State), s.regs.bound = true →
    (∀ d, s.bus.nextAnswer = .ok d →
      exec .getFormat s = .next { s with
        regs := { s.regs with result := d.b0.setWidth 32, anomaly := false, code := 0 }
        bus := s.bus.issue s.regs.busAddr (.memRead 49 1) } ∧
      exec (.setFormat v) s = .next { s with
        regs := { s.regs with anomaly := false, code := 0 }
        bus := s.bus.issue s.regs.busAddr (.memWrite 49 [v]) }) ∧
    (s.bus.nextAnswer = .err →
      exec .getFormat s = .next { s with
        regs := { s.regs with anomaly := false, code := 1 }
        bus := s.bus.issue s.regs.busAddr (.memRead 49 1) } ∧
      exec (.setFormat v) s = .next { s with
        regs := { s.regs with anomaly := false, code := 1 }
        bus := s.bus.issue s.regs.busAddr (.memWrite 49 [v]) })

/-! ## The sample pipeline -/

/-- R131: PAIR16 as an integer, for all byte pairs. -/
def Obligations.Pair16IsTwosComplement : Prop :=
  ∀ lo hi : Byte,
    (pair16 lo hi).toInt = 256 * (hi.toNat : Int) + lo.toNat - (if hi.toNat < 0x80 then 0 else 65536)

/-- R133, R134: DECODE6 is a bijection, with the inverse of R134, and each lane depends only on its own two bytes. -/
def Obligations.Decode6IsABijectionByLanes : Prop :=
  Function.Bijective decode6 ∧
  (∀ b : Burst, decode6 b = (pair16 b.b0 b.b1, pair16 b.b2 b.b3, pair16 b.b4 b.b5)) ∧
  (∀ b : Burst, b = ⟨(decode6 b).1.extractLsb' 0 8, (decode6 b).1.extractLsb' 8 8, (decode6 b).2.1.extractLsb' 0 8,
    (decode6 b).2.1.extractLsb' 8 8, (decode6 b).2.2.extractLsb' 0 8, (decode6 b).2.2.extractLsb' 8 8⟩)

/-- R135, R137, R138, R139: ORIENT's formula for every sample, with the sum of squares as an exact integer of at most 2^31; its corner
cases; and its magnitude invariance: a positive multiple of Y and Z has the same roll, and the doubled sample the same roll and
pitch. -/
def Obligations.OrientFollowsItsFormula : Prop :=
  (∀ x y z : BitVec 16,
    (orient x y z).1 = f64Mul (atan2 (f64OfInt y.toInt) (f64OfInt z.toInt)) degPerRad ∧
    (orient x y z).2 = f64Neg (f64Mul
      (atan2 (f64OfInt x.toInt) (f64Sqrt (f64OfInt (y.toInt * y.toInt + z.toInt * z.toInt)))) degPerRad) ∧
    0 ≤ y.toInt * y.toInt + z.toInt * z.toInt ∧ y.toInt * y.toInt + z.toInt * z.toInt ≤ 2 ^ 31) ∧
  (∀ y z, (orient 0 y z).2 = 0x8000000000000000#64) ∧
  (∀ x z, 0 ≤ z.toInt → (orient x 0 z).1 = 0) ∧
  (∀ x z, z.toInt < 0 → (orient x 0 z).1 = f64Mul 0x400921FB54442D18#64 degPerRad) ∧
  (∀ x, 0 < x.toInt → (orient x 0 0).2 = f64Neg (f64Mul 0x3FF921FB54442D18#64 degPerRad)) ∧
  (∀ x, x.toInt < 0 → (orient x 0 0).2 = f64Mul 0x3FF921FB54442D18#64 degPerRad) ∧
  (degPerRad = 0x404CA66666666666#64 ∨ degPerRad = 0x404CA5DC1A63C1F8#64) ∧
  (∀ (k : Int) (x x' y z y' z' : BitVec 16), 0 < k → y'.toInt = k * y.toInt → z'.toInt = k * z.toInt →
    (orient x' y' z').1 = (orient x y z).1) ∧
  (∀ x y z x' y' z' : BitVec 16, x'.toInt = 2 * x.toInt → y'.toInt = 2 * y.toInt → z'.toInt = 2 * z.toInt →
    orient x' y' z' = orient x y z)

/-- R136, R139: P1 at the special arguments, P2 for every y but ±0, P3 as the model tests it (assumption log 6): for finite y > 0 and
x ≠ 0 the result is admitted by the tolerance or is the reference's; and the result depends only on the direction of (x, y). -/
def Obligations.Atan2HasItsProperties : Prop :=
  (∀ x : F64, x.msb = false → f64Value x ≠ .nan → atan2 0 x = 0) ∧
  (∀ x : F64, x.msb = true → x ≠ 0x8000000000000000#64 → f64Value x ≠ .nan → atan2 0 x = 0x400921FB54442D18#64) ∧
  (∀ y : F64, y.msb = false → y ≠ 0 → f64Value y ≠ .nan → atan2 y 0 = 0x3FF921FB54442D18#64) ∧
  (∀ y : F64, y.msb = true → y ≠ 0x8000000000000000#64 → f64Value y ≠ .nan → atan2 y 0 = 0xBFF921FB54442D18#64) ∧
  (∀ y x : F64, y ≠ 0 → y ≠ 0x8000000000000000#64 → atan2 (f64Neg y) x = f64Neg (atan2 y x)) ∧
  (∀ (y x : F64) (sy sx : Nat) (ey ex : Int) (negX : Bool),
    f64Value y = .finite false sy ey → f64Value x = .finite negX sx ex → sy ≠ 0 → sx ≠ 0 →
    let d := atan2Direction sy ey sx ex
    (d.1 : ℚ) * sx * (2 : ℚ) ^ ex = d.2 * sy * (2 : ℚ) ^ ey ∧ Nat.Coprime d.1 d.2 ∧
    (atan2Admits Config.atan2TolUlp d.1 d.2 negX (atan2 y x) = true ∨ atan2 y x = atan2ReferenceOf d.1 d.2 negX)) ∧
  (∀ (y x y' x' : F64) (negY negX : Bool) (sy sx sy' sx' : Nat) (ey ex ey' ex' : Int),
    f64Value y = .finite negY sy ey → f64Value x = .finite negX sx ex →
    f64Value y' = .finite negY sy' ey' → f64Value x' = .finite negX sx' ex' →
    sy ≠ 0 → sx ≠ 0 → sy' ≠ 0 → sx' ≠ 0 →
    fpRat (f64Value y') * fpRat (f64Value x) = fpRat (f64Value y) * fpRat (f64Value x') → atan2 y' x' = atan2 y x)

/-- R141: ACQUIRE takes RAW, SAMPLE, ROLL, PITCH and DATA_VALID from one 6-byte burst, or keeps them all. -/
def Obligations.AcquireReplacesTheSampleWholesale : Prop :=
  ∀ s : State, s.regs.bound = true →
    (∀ d, s.bus.nextAnswer = .ok d → exec .acquire s = .next { s with
      regs := { s.regs with
        raw := d
        sampleX := pair16 d.b0 d.b1, sampleY := pair16 d.b2 d.b3, sampleZ := pair16 d.b4 d.b5
        roll := (orient (pair16 d.b0 d.b1) (pair16 d.b2 d.b3) (pair16 d.b4 d.b5)).1
        pitch := (orient (pair16 d.b0 d.b1) (pair16 d.b2 d.b3) (pair16 d.b4 d.b5)).2
        dataValid := true, anomaly := false, code := 0 }
      bus := s.bus.issue s.regs.busAddr (.memRead 50 6) }) ∧
    (s.bus.nextAnswer = .err → exec .acquire s = .next { s with
      regs := { s.regs with anomaly := false, code := 1 }
      bus := s.bus.issue s.regs.busAddr (.memRead 50 6) })

/-- R88, R142: PIPE runs the pipeline on the bytes of ARG0 and ARG1[15:0], from any state. -/
def Obligations.PipeRunsThePipelineOnTheArguments : Prop :=
  ∀ s : State, ∃ d : Burst,
    s.regs.arg0.toNat = d.b0.toNat + 2 ^ 8 * d.b1.toNat + 2 ^ 16 * d.b2.toNat + 2 ^ 24 * d.b3.toNat ∧
    s.regs.arg1.toNat % 2 ^ 16 = d.b4.toNat + 2 ^ 8 * d.b5.toNat ∧
    exec .pipe s = .next { s with
      regs := { s.regs with
        raw := d
        sampleX := pair16 d.b0 d.b1, sampleY := pair16 d.b2 d.b3, sampleZ := pair16 d.b4 d.b5
        roll := (orient (pair16 d.b0 d.b1) (pair16 d.b2 d.b3) (pair16 d.b4 d.b5)).1
        pitch := (orient (pair16 d.b0 d.b1) (pair16 d.b2 d.b3) (pair16 d.b4 d.b5)).2
        dataValid := true, anomaly := false, code := 0 } }

/-! ## The threshold codec -/

/-- R166, R167: TENC and TDEC write RESULT alone, whatever BOUND is. -/
def Obligations.TencAndTdecWriteResult : Prop :=
  ∀ (k : Kind) (c : Byte) (s : State),
    exec (.tenc (kindIndex k)) s = .next { s with
      regs := { s.regs with result := (thresholdEncode s.regs.arg0 k).setWidth 32, anomaly := false, code := 0 } } ∧
    exec (.tdec (kindIndex k) c) s = .next { s with
      regs := { s.regs with result := f32Mul (f32OfByte c) (scale32 k), anomaly := false, code := 0 } }

/-- R168: SET_THRESH writes ENCODE(ARG0, k) to THRESH_ADDR[k] and returns the code. -/
def Obligations.SetThreshWritesTheEncodedValue : Prop :=
  ∀ (k : Kind) (s : State), s.regs.bound = true →
    (∀ d, s.bus.nextAnswer = .ok d → exec (.setThresh (kindIndex k)) s = .next { s with
      regs := { s.regs with result := (thresholdEncode s.regs.arg0 k).setWidth 32, anomaly := false, code := 0 }
      bus := s.bus.issue s.regs.busAddr (.memWrite (threshAddr k) [thresholdEncode s.regs.arg0 k]) }) ∧
    (s.bus.nextAnswer = .err → exec (.setThresh (kindIndex k)) s = .next { s with
      regs := { s.regs with anomaly := false, code := 1 }
      bus := s.bus.issue s.regs.busAddr (.memWrite (threshAddr k) [thresholdEncode s.regs.arg0 k]) })

/-- R169: GET_THRESH returns DECODE of the byte at THRESH_ADDR[k]. -/
def Obligations.GetThreshReturnsTheDecodedValue : Prop :=
  ∀ (k : Kind) (s : State), s.regs.bound = true →
    (∀ d, s.bus.nextAnswer = .ok d → exec (.getThresh (kindIndex k)) s = .next { s with
      regs := { s.regs with result := f32Mul (f32OfByte d.b0) (scale32 k), anomaly := false, code := 0 }
      bus := s.bus.issue s.regs.busAddr (.memRead (threshAddr k) 1) }) ∧
    (s.bus.nextAnswer = .err → exec (.getThresh (kindIndex k)) s = .next { s with
      regs := { s.regs with anomaly := false, code := 1 }
      bus := s.bus.issue s.regs.busAddr (.memRead (threshAddr k) 1) })

/-- R170, R171, R172, R174: CLEAR_SETTINGS issues the ten writes in order; RESULT is 10 when all answer Ok, and the number
acknowledged before the first Err otherwise; nothing after the Err is issued. -/
def Obligations.ClearSettingsCountsAcknowledgedWrites : Prop :=
  ∀ s : State, s.regs.bound = true →
    let ts := (kindOrder.map fun k => Transaction.memWrite (threshAddr k) [0]) ++ [.memWrite 49 [0x08]]
    (s.bus.allOk s.regs.busAddr ts = true → exec .clearSettings s = .next { s with
      regs := { s.regs with result := 10, anomaly := false, code := 0 }
      bus := s.bus.issueAll s.regs.busAddr ts }) ∧
    (∀ n : Nat, n < 10 → s.bus.allOk s.regs.busAddr (ts.take n) = true →
      (s.bus.issueAll s.regs.busAddr (ts.take n)).nextAnswer = .err →
      exec .clearSettings s = .next { s with
        regs := { s.regs with result := BitVec.ofNat 32 n, anomaly := false, code := 1 }
        bus := s.bus.issueAll s.regs.busAddr (ts.take (n + 1)) })

/-- R161, R162, R163: ENCODE clamps NaN and negative quotients to 0 and those above 255 to 0xFF, and takes the floor of the rest. -/
def Obligations.EncodeClampsThenTruncates : Prop :=
  ∀ (v : F32) (k : Kind),
    (f32Value (f32Div v (scale32 k)) = .nan → thresholdEncode v k = 0) ∧
    (f32Value (f32Div v (scale32 k)) = .inf true → thresholdEncode v k = 0) ∧
    (f32Value (f32Div v (scale32 k)) = .inf false → thresholdEncode v k = 0xFF) ∧
    (∀ neg sig exp, f32Value (f32Div v (scale32 k)) = .finite neg sig exp →
      (fpRat (.finite neg sig exp) < 0 → thresholdEncode v k = 0) ∧
      (255 < fpRat (.finite neg sig exp) → thresholdEncode v k = 0xFF) ∧
      (0 ≤ fpRat (.finite neg sig exp) → fpRat (.finite neg sig exp) ≤ 255 →
        ((thresholdEncode v k).toNat : Int) = ⌊fpRat (.finite neg sig exp)⌋))

/-- R161, R162: a negative physical value, −0.0, −inf and a NaN with its sign set among them, encodes to 0 for every kind. -/
def Obligations.NegativeValuesEncodeToZero : Prop :=
  ∀ (v : F32) (k : Kind), v.msb = true → thresholdEncode v k = 0

/-- R165 item 1, R260: the code round trip is the identity, but for the listed codes of the four inexact kinds, which lose one. -/
def Obligations.CodeRoundTripDriftsOnlyOnTheListedCodes : Prop :=
  ∀ (k : Kind) (c : Byte),
    thresholdEncode (thresholdDecode c k) k = if exactScale k = false ∧ c ∈ driftingCodes then c - 1 else c

/-- R165 item 2: for an exact scale, a value that is not negative and does not saturate is above its decoded code by less than one
LSB, and never below it. -/
def Obligations.ValueRoundTripErrorIsBelowOneLsb : Prop :=
  ∀ (v : F32) (k : Kind) (sig : Nat) (exp : Int),
    exactScale k = true → f32Value v = .finite false sig exp → (thresholdEncode v k).toNat < 255 →
    0 ≤ fpRat (f32Value v) - fpRat (f32Value (thresholdDecode (thresholdEncode v k) k)) ∧
    fpRat (f32Value v) - fpRat (f32Value (thresholdDecode (thresholdEncode v k) k)) < fpRat (f32Value (scale32 k))

/-! ## The interrupt decoder -/

/-- R190, R192, R193: POLL_INT replaces FLAGS by the seven mapped bits of the byte read and keeps the raw byte in RESULT; DECODE_INT
replaces both by the seven mapped bits of B. -/
def Obligations.PollIntAndDecodeIntReplaceTheFlags : Prop :=
  (∀ s : State, s.regs.bound = true →
    (∀ d, s.bus.nextAnswer = .ok d → exec .pollInt s = .next { s with
      regs := { s.regs with flags := d.b0 &&& 0x7F, result := d.b0.setWidth 32, anomaly := false, code := 0 }
      bus := s.bus.issue s.regs.busAddr (.memRead 48 1) }) ∧
    (s.bus.nextAnswer = .err → exec .pollInt s = .next { s with
      regs := { s.regs with anomaly := false, code := 1 }
      bus := s.bus.issue s.regs.busAddr (.memRead 48 1) })) ∧
  (∀ (b : Byte) (s : State), exec (.decodeInt b) s = .next { s with
    regs := { s.regs with flags := b &&& 0x7F, result := (b &&& 0x7F).setWidth 32, anomaly := false, code := 0 } })

/-- R36, R190, R191: INTDEC in named form, bit 7 ignored, and distinct on the 128 values of its seven bits. -/
def Obligations.IntdecMapsBitsToNamedFlags : Prop :=
  (∀ s : Byte, eventFlags (intdec s) =
    { freeFall := false, dataReady := s.getLsbD 6, tap := s.getLsbD 5, doubleTap := s.getLsbD 4, activity := s.getLsbD 3,
      inactivity := s.getLsbD 2, watermark := s.getLsbD 1, overrun := s.getLsbD 0 }) ∧
  (∀ s : Byte, intdec (s ^^^ 0x80) = intdec s) ∧
  (∀ s t : Byte, intdec s = intdec t → s &&& 0x7F = t &&& 0x7F)

/-! ## Selectors out of range, and arithmetic -/

/-- Model's choice (assumption log 13): R92 items 4 and 5 speak of words, and no word decodes to a command term with a kind above 8 or
an axis above 2; `exec` ends such a term as R92 ends an ILLEGAL word, whatever BOUND is. -/
def Obligations.SelectorsOutOfRangeAreIllegal : Prop :=
  ∀ (i : Instr) (s : State), i.wellFormed = false →
    exec i s = .next { s with regs := { s.regs with code := 2, anomaly := false } }

/-- R11, R138: `to_f64` is exact for |n| ≤ 2^53. -/
def Obligations.IntegerConversionIsExact : Prop :=
  ∀ n : Int, n.natAbs ≤ 2 ^ 53 →
    ∃ sig exp, f64Value (f64OfInt n) = .finite (decide (n < 0)) sig exp ∧ fpRat (f64Value (f64OfInt n)) = n

/-- R11: `f32_mul`, `f32_div`, `f64_mul` and `f64_sqrt` of finite operands, and the binary32 of a decimal literal (R97), are the exact
result rounded by roundTiesToEven; a NaN or infinite dividend stays one; the integer steps behind
them round to nearest, ties to even, and take the floor of the root. -/
def Obligations.ArithmeticRoundsToNearestEven : Prop :=
  (∀ sig shift : Nat,
    2 * ((roundShift sig shift : Int) * 2 ^ shift - sig).natAbs ≤ 2 ^ shift ∧
    (0 < shift → 2 * ((roundShift sig shift : Int) * 2 ^ shift - sig).natAbs = 2 ^ shift → roundShift sig shift % 2 = 0)) ∧
  (∀ m : Nat, isqrt m * isqrt m ≤ m ∧ m < (isqrt m + 1) * (isqrt m + 1)) ∧
  (∀ (a b : F32) (na nb : Bool) (sa sb : Nat) (ea eb : Int),
    f32Value a = .finite na sa ea → f32Value b = .finite nb sb eb →
    binary32.Rounds (na != nb) ((fpRat (f32Value a) : ℝ) * fpRat (f32Value b)) (f32Mul a b).toNat ∧
    (sb ≠ 0 → binary32.Rounds (na != nb) ((fpRat (f32Value a) : ℝ) / fpRat (f32Value b)) (f32Div a b).toNat)) ∧
  (∀ (a b : F32) (nb : Bool) (sb : Nat) (eb : Int), f32Value b = .finite nb sb eb →
    (f32Value a = .nan → f32Value (f32Div a b) = .nan) ∧
    (∀ na, f32Value a = .inf na → f32Value (f32Div a b) = .inf (na != nb))) ∧
  (∀ (a b : F64) (na nb : Bool) (sa sb : Nat) (ea eb : Int),
    f64Value a = .finite na sa ea → f64Value b = .finite nb sb eb →
    binary64.Rounds (na != nb) ((fpRat (f64Value a) : ℝ) * fpRat (f64Value b)) (f64Mul a b).toNat) ∧
  (∀ (a : F64) (sa : Nat) (ea : Int), f64Value a = .finite false sa ea →
    binary64.Rounds false (Real.sqrt (fpRat (f64Value a) : ℝ)) (f64Sqrt a).toNat) ∧
  (∀ (neg : Bool) (num den : Nat), 0 < den →
    binary32.Rounds neg ((if neg then -1 else 1) * (num : ℝ) / den) (binary32.ofRatio neg num den))

/-! ## The invariant -/

/-- R25, R33 to R36, R61, R67: every step keeps the invariant. -/
def Obligations.StepKeepsTheInvariant : Prop :=
  ∀ s t : State, s.Inv → step s = .next t → t.Inv

/-- R33, R250: the invariant holds after reset. -/
def Obligations.ResetMeetsTheInvariant : Prop :=
  State.reset.Inv
end

