-- ==== Sys2Proof/Laws/Decode.lean ====
section
/-! SUPPORT. The field lemmas of the command word: what each field of a packed word is, that a word is its four fields, and what a
mask keeps of a packed word. -/

namespace Sys2Proof

/-- Bits put above other bits, as numbers. -/
theorem toNat_append_add {m n : Nat} (x : BitVec m) (y : BitVec n) : (x ++ y).toNat = x.toNat * 2 ^ n + y.toNat := by
  rw [BitVec.toNat_append, ← Nat.shiftLeft_add_eq_or_of_lt y.isLt, Nat.shiftLeft_eq]

/-- A command word as a number. -/
theorem packWord_toNat (o a b : Byte) :
    (packWord o a b).toNat = o.toNat * 2 ^ 24 + a.toNat * 2 ^ 16 + b.toNat * 2 ^ 8 := by
  have h : (packWord o a b).toNat = ((o.toNat * 2 ^ 8 + a.toNat) * 2 ^ 8 + b.toNat) * 2 ^ 8 + (0 : Byte).toNat := by
    rw [← toNat_append_add, ← toNat_append_add, ← toNat_append_add]
    rfl
  rw [h]
  have : (0 : Byte).toNat = 0 := rfl
  omega

@[simp] theorem fieldOp_packWord (o a b : Byte) : fieldOp (packWord o a b) = o := by
  apply BitVec.eq_of_toNat_eq
  have ho := o.isLt
  have ha := a.isLt
  have hb := b.isLt
  rw [fieldOp, BitVec.extractLsb'_toNat, packWord_toNat, Nat.shiftRight_eq_div_pow]
  omega

@[simp] theorem fieldA_packWord (o a b : Byte) : fieldA (packWord o a b) = a := by
  apply BitVec.eq_of_toNat_eq
  have ho := o.isLt
  have ha := a.isLt
  have hb := b.isLt
  rw [fieldA, BitVec.extractLsb'_toNat, packWord_toNat, Nat.shiftRight_eq_div_pow]
  omega

@[simp] theorem fieldB_packWord (o a b : Byte) : fieldB (packWord o a b) = b := by
  apply BitVec.eq_of_toNat_eq
  have ho := o.isLt
  have ha := a.isLt
  have hb := b.isLt
  rw [fieldB, BitVec.extractLsb'_toNat, packWord_toNat, Nat.shiftRight_eq_div_pow]
  omega

@[simp] theorem fieldRsv_packWord (o a b : Byte) : fieldRsv (packWord o a b) = 0 := by
  apply BitVec.eq_of_toNat_eq
  have ho := o.isLt
  have ha := a.isLt
  have hb := b.isLt
  rw [fieldRsv, BitVec.extractLsb'_toNat, packWord_toNat, Nat.shiftRight_eq_div_pow]
  have : (0 : Byte).toNat = 0 := rfl
  omega

/-- A word whose RSV is 0 is its OP, A and B. -/
theorem packWord_fields {w : Word} (h : fieldRsv w = 0) : packWord (fieldOp w) (fieldA w) (fieldB w) = w := by
  apply BitVec.eq_of_toNat_eq
  have hw := w.isLt
  have hr : w.toNat % 2 ^ 8 = 0 := by
    have := congrArg BitVec.toNat h
    simpa [fieldRsv, BitVec.extractLsb'_toNat] using this
  rw [packWord_toNat, fieldOp, fieldA, fieldB]
  simp only [BitVec.extractLsb'_toNat, Nat.shiftRight_eq_div_pow]
  omega

/-- INIT's selector byte as a number. -/
theorem encodeInitA_toNat (d : Bool) (a : BitVec 7) : (encodeInitA d a).toNat = d.toNat * 2 ^ 7 + a.toNat := by
  rw [← BitVec.toNat_ofBool, ← toNat_append_add]
  rfl

/-- INIT's selector keeps DEF in bit 7. -/
@[simp] theorem encodeInitA_def (d : Bool) (a : BitVec 7) : (encodeInitA d a).getLsbD 7 = d := by
  have ha := a.isLt
  rw [BitVec.getLsbD, encodeInitA_toNat, Nat.testBit_eq_decide_div_mod_eq]
  cases d <;> simp <;> omega

/-- INIT's selector keeps ADDR in bits 6..0. -/
@[simp] theorem encodeInitA_addr (d : Bool) (a : BitVec 7) : (encodeInitA d a).extractLsb' 0 7 = a := by
  have ha := a.isLt
  apply BitVec.eq_of_toNat_eq
  rw [BitVec.extractLsb'_toNat, encodeInitA_toNat]
  simp only [Nat.shiftRight_zero]
  omega

/-- INIT's selector is the byte its two fields were taken from. -/
theorem encodeInitA_fields (a : Byte) : encodeInitA (a.getLsbD 7) (a.extractLsb' 0 7) = a := by
  have ha := a.isLt
  apply BitVec.eq_of_toNat_eq
  rw [encodeInitA_toNat, BitVec.extractLsb'_toNat, BitVec.getLsbD, Nat.toNat_testBit]
  simp only [Nat.shiftRight_zero]
  omega

/-- A mask written as four bytes acts on each field of a packed word. -/
theorem packWord_and (o a b mo ma mb mr : Byte) :
    packWord o a b &&& (mo ++ ma ++ mb ++ mr : BitVec 32) = packWord (o &&& mo) (a &&& ma) (b &&& mb) := by
  have h : packWord o a b &&& (mo ++ ma ++ mb ++ mr : BitVec 32) =
      ((o &&& mo) ++ (a &&& ma) ++ (b &&& mb) ++ ((0 : Byte) &&& mr) : BitVec 32) := by
    rw [← BitVec.and_append, ← BitVec.and_append, ← BitVec.and_append]
    rfl
  rw [h, show (0 : Byte) &&& mr = 0 from BitVec.zero_and]
  rfl

end Sys2Proof
end

