-- ==== Sys2Proof/Laws/Float.lean ====
section
/-! SUPPORT. What packing and unpacking a floating-point pattern do (spec/00_scope.md R11): the fields of a pattern, the value of a
magnitude, and the two cases of `FpFormat.pack`. -/

namespace Sys2Proof.Machine

/-- The sign bit of a pattern is the bit above its magnitude. -/
theorem FpFormat.testBit_sign (f : FpFormat) (neg : Bool) {mag : Nat} (h : mag < 2 ^ (f.fracBits + f.expBits)) :
    (f.signBit neg + mag).testBit (f.fracBits + f.expBits) = neg := by
  rw [Nat.testBit_eq_decide_div_mod_eq]
  cases neg with
  | false => simp [FpFormat.signBit, Nat.div_eq_of_lt h]
  | true =>
    rw [FpFormat.signBit, if_pos rfl, Nat.add_div_left _ (Nat.two_pow_pos _), Nat.div_eq_of_lt h]
    rfl

/-- The exponent field of a pattern is its magnitude's. -/
theorem FpFormat.field_sign (f : FpFormat) (neg : Bool) {mag : Nat} (h : mag < 2 ^ (f.fracBits + f.expBits)) :
    (f.signBit neg + mag) / 2 ^ f.fracBits % 2 ^ f.expBits = mag / 2 ^ f.fracBits := by
  have hlt : mag / 2 ^ f.fracBits < 2 ^ f.expBits := Nat.div_lt_of_lt_mul (by rwa [← pow_add])
  cases neg with
  | false => simpa [FpFormat.signBit] using Nat.mod_eq_of_lt hlt
  | true =>
    rw [FpFormat.signBit, if_pos rfl, pow_add, Nat.mul_add_div (Nat.two_pow_pos _), Nat.add_mod_left, Nat.mod_eq_of_lt hlt]

/-- The fraction of a pattern is its magnitude's. -/
theorem FpFormat.frac_sign (f : FpFormat) (neg : Bool) (mag : Nat) :
    (f.signBit neg + mag) % 2 ^ f.fracBits = mag % 2 ^ f.fracBits := by
  cases neg with
  | false => simp [FpFormat.signBit]
  | true => rw [FpFormat.signBit, if_pos rfl, pow_add, Nat.mul_add_mod]

/-- A magnitude below the infinities' is below the sign bit. -/
theorem FpFormat.magnitude_lt {f : FpFormat} {mag : Nat} (h : mag ≤ f.maxField * 2 ^ f.fracBits) :
    mag < 2 ^ (f.fracBits + f.expBits) := by
  have hp := Nat.two_pow_pos f.fracBits
  have he := Nat.two_pow_pos f.expBits
  calc mag ≤ f.maxField * 2 ^ f.fracBits := h
    _ < 2 ^ f.expBits * 2 ^ f.fracBits := by
      rw [FpFormat.maxField]
      exact Nat.mul_lt_mul_of_pos_right (by omega) hp
    _ = 2 ^ (f.fracBits + f.expBits) := by rw [pow_add, Nat.mul_comm]

/-- A finite pattern built from a significand `m` at `q` steps above the finest exponent has exactly that value: `m` is a full
significand, or `q` is 0 and the value subnormal or in the lowest binade. -/
theorem FpFormat.unpack_finite {f : FpFormat} (neg : Bool) {q m : Nat} (hm : m < 2 ^ (f.fracBits + 1))
    (hn : q = 0 ∨ 2 ^ f.fracBits ≤ m) (hb : q * 2 ^ f.fracBits + m < f.maxField * 2 ^ f.fracBits) :
    f.unpack (f.signBit neg + (q * 2 ^ f.fracBits + m)) = .finite neg m (f.minExp + q) := by
  have hp := Nat.two_pow_pos f.fracBits
  have hlt := FpFormat.magnitude_lt hb.le
  have hfield : (q * 2 ^ f.fracBits + m) / 2 ^ f.fracBits < f.maxField := Nat.div_lt_of_lt_mul (by linarith)
  simp only [FpFormat.unpack, f.testBit_sign neg hlt, f.field_sign neg hlt, f.frac_sign, if_neg hfield.ne]
  rw [pow_succ] at hm
  rw [Nat.mul_comm q, Nat.mul_add_mod, Nat.mul_add_div hp]
  by_cases h : m < 2 ^ f.fracBits
  · have hq : q = 0 := by omega
    subst hq
    simp [Nat.div_eq_of_lt h, Nat.mod_eq_of_lt h]
  · have h1 : m / 2 ^ f.fracBits = 1 := by
      rw [Nat.div_eq_iff hp]
      omega
    have h2 : 2 ^ f.fracBits + m % 2 ^ f.fracBits = m := by
      have := Nat.div_add_mod m (2 ^ f.fracBits)
      rw [h1] at this
      omega
    rw [h1, if_neg (by omega), h2]
    simp

/-- The pattern of an infinity is one. -/
theorem FpFormat.unpack_infinity (f : FpFormat) (neg : Bool) : f.unpack (f.infinity neg) = .inf neg := by
  have hlt := FpFormat.magnitude_lt (f := f) le_rfl
  have hp := Nat.two_pow_pos f.fracBits
  simp [FpFormat.unpack, FpFormat.infinity, f.testBit_sign neg hlt, f.field_sign neg hlt, f.frac_sign,
    Nat.mul_div_cancel _ hp]

/-- A finite pattern's significand and exponent are in range: a full significand, or the finest exponent. -/
theorem FpFormat.unpack_range {f : FpFormat} {bits : Nat} {neg : Bool} {sig : Nat} {exp : Int}
    (h : f.unpack bits = .finite neg sig exp) :
    sig < 2 ^ (f.fracBits + 1) ∧ (exp = f.minExp ∨ 2 ^ f.fracBits ≤ sig) ∧ f.minExp ≤ exp := by
  have hr := Nat.mod_lt bits (Nat.two_pow_pos f.fracBits)
  simp only [FpFormat.unpack] at h
  rw [pow_succ]
  split at h
  · split at h <;> cases h
  · split at h
    · cases h
      exact ⟨by omega, .inl rfl, le_rfl⟩
    · cases h
      exact ⟨by omega, .inr (Nat.le_add_right _ _), by omega⟩

/-! ## Rounding -/

/-- A multiple of 2^Q other than the chosen one is no nearer, and ties only with an even choice. -/
theorem nearest_of_multiple {v w : ℝ} {m j : ℤ} (hw : 0 < w) (h : |m * w - v| ≤ w / 2) (hj : j ≠ m) :
    |m * w - v| ≤ |j * w - v| ∧ (|m * w - v| = |j * w - v| → |m * w - v| = w / 2) := by
  have h1 : w ≤ |j * w - m * w| := by
    have : (1 : ℝ) ≤ |(j : ℝ) - m| := by
      have : (1 : ℤ) ≤ |j - m| := Int.one_le_abs (sub_ne_zero.2 hj)
      exact_mod_cast this
    rw [← sub_mul, abs_mul, abs_of_pos hw]
    nlinarith
  have h2 : |j * w - m * w| ≤ |j * w - v| + |m * w - v| := by
    have := abs_sub_le (j * w) v (m * w)
    rwa [abs_sub_comm v] at this
  exact ⟨by linarith, fun he => by linarith⟩

/-- A finite value's magnitude against a quantum 2^Q of its format: a multiple of it, or below every full significand of it. -/
theorem FpFormat.finite_multiple_or_small {f : FpFormat} {bits : Nat} {neg : Bool} {sig : Nat} {exp : Int}
    (h : f.unpack bits = .finite neg sig exp) (Q : Int) :
    (∃ j : ℕ, (sig : ℝ) * 2 ^ exp = j * (2 : ℝ) ^ Q) ∨
    (f.minExp < Q ∧ (sig : ℝ) * 2 ^ exp < (2 : ℝ) ^ f.fracBits * 2 ^ Q) := by
  obtain ⟨h1, h2, h3⟩ := f.unpack_range h
  have hs : (sig : ℝ) < 2 * 2 ^ f.fracBits := by
    rw [pow_succ] at h1
    exact_mod_cast (by linarith : sig < 2 * 2 ^ f.fracBits)
  by_cases hQ : Q ≤ exp
  · refine .inl ⟨sig * 2 ^ (exp - Q).toNat, ?_⟩
    have : exp = ((exp - Q).toNat : Int) + Q := by omega
    conv_lhs => rw [this]
    rw [zpow_add₀ two_ne_zero, zpow_natCast]
    push_cast
    ring
  · refine .inr ⟨by omega, ?_⟩
    have h4 : (2 : ℝ) ^ exp ≤ 2 ^ (Q - 1) := zpow_le_zpow_right₀ one_le_two (by omega)
    have h5 : (2 : ℝ) ^ Q = 2 * 2 ^ (Q - 1) := by
      rw [← zpow_one_add₀ two_ne_zero]
      congr 1
      ring
    have h6 : (0 : ℝ) < 2 ^ exp := by positivity
    have h7 : (0 : ℝ) < 2 ^ f.fracBits := by positivity
    rw [h5]
    nlinarith

/-- The signed value of a finite pattern. -/
theorem fpRat_finite_cast (neg : Bool) (sig : Nat) (exp : Int) :
    ((fpRat (.finite neg sig exp) : ℚ) : ℝ) = (if neg then -1 else 1) * ((sig : ℝ) * 2 ^ exp) := by
  simp only [fpRat]
  push_cast
  cases neg <;> simp

/-- The pattern of the nearest multiple `m` of a quantum 2^(minExp + q), ties to even, is the rounding of `v`: `v` is in the range
the quantum serves, and a magnitude past the largest is an infinity. -/
theorem FpFormat.rounds_of_nearest {f : FpFormat} (hfrac : 1 ≤ f.fracBits) (hmax : 2 ≤ f.maxField) (neg : Bool) {q m : Nat} {v : ℝ}
    (hv : 0 ≤ v) (hm : m ≤ 2 ^ (f.fracBits + 1))
    (hq : q = 0 ∨ 2 ^ f.fracBits ≤ m ∧ (2 : ℝ) ^ f.fracBits * 2 ^ (f.minExp + q) ≤ v)
    (hnear : |m * (2 : ℝ) ^ (f.minExp + q) - v| ≤ (2 : ℝ) ^ (f.minExp + q) / 2)
    (htie : |m * (2 : ℝ) ^ (f.minExp + q) - v| = (2 : ℝ) ^ (f.minExp + q) / 2 → m % 2 = 0) :
    f.Rounds neg ((if neg then -1 else 1) * v)
      (if f.maxField * 2 ^ f.fracBits ≤ q * 2 ^ f.fracBits + m then f.infinity neg
        else f.signBit neg + (q * 2 ^ f.fracBits + m)) := by
  obtain ⟨T, hT⟩ : ∃ T, f.maxField = T + 2 := ⟨f.maxField - 2, by omega⟩
  have hP := Nat.two_pow_pos f.fracBits
  have hPr : (1 : ℝ) ≤ 2 ^ f.fracBits := one_le_pow₀ one_le_two
  have habs : |(if neg then -1 else 1) * v| = v := by cases neg <;> simp [abs_of_nonneg hv]
  have hover : f.overflowAt = (2 * 2 ^ f.fracBits - 1 / 2) * (2 : ℝ) ^ (f.minExp + T) := by
    rw [FpFormat.overflowAt, hT, pow_succ]
    simp only [Nat.add_sub_cancel]
    ring
  have hnear' := abs_le.1 hnear
  have hw : (0 : ℝ) < 2 ^ (f.minExp + q) := by positivity
  have hwT : (0 : ℝ) < 2 ^ (f.minExp + T) := by positivity
  rw [pow_succ] at hm
  have hmr : (m : ℝ) ≤ 2 * 2 ^ f.fracBits := by exact_mod_cast (by linarith : m ≤ 2 * 2 ^ f.fracBits)
  have key : f.maxField * 2 ^ f.fracBits ≤ q * 2 ^ f.fracBits + m ↔ f.overflowAt ≤ v := by
    rw [hover, hT]
    constructor
    · intro h
      have hqT : T ≤ q := by
        by_contra hc
        have : q * 2 ^ f.fracBits ≤ T * 2 ^ f.fracBits - 2 ^ f.fracBits := by
          obtain ⟨d, rfl⟩ : ∃ d, T = q + 1 + d := ⟨T - (q + 1), by omega⟩
          rw [add_mul, add_mul, one_mul]
          omega
        have : 2 ^ f.fracBits ≤ T * 2 ^ f.fracBits := Nat.le_mul_of_pos_left _ (by omega)
        rw [add_mul] at h
        omega
      obtain rfl | hlt := hqT.eq_or_lt
      · have : (m : ℝ) = 2 * 2 ^ f.fracBits := by
          exact_mod_cast (by rw [add_mul] at h; omega : m = 2 * 2 ^ f.fracBits)
        rw [this] at hnear'
        nlinarith [hnear'.1, hnear'.2]
      · obtain h0 | ⟨-, h1⟩ := hq
        · omega
        · have : (2 : ℝ) * 2 ^ (f.minExp + T) ≤ 2 ^ (f.minExp + q) := by
            rw [← zpow_one_add₀ two_ne_zero]
            exact zpow_le_zpow_right₀ one_le_two (by omega)
          nlinarith
    · intro h
      by_contra hc
      rw [add_mul] at hc
      have hqT : q ≤ T := by
        by_contra hc'
        have : (T + 1) * 2 ^ f.fracBits ≤ q * 2 ^ f.fracBits := Nat.mul_le_mul_right _ (by omega)
        rw [add_mul] at this
        omega
      obtain rfl | hlt := hqT.eq_or_lt
      · have hm1 : m + 1 ≤ 2 * 2 ^ f.fracBits := by omega
        have hm1r : (m : ℝ) + 1 ≤ 2 * 2 ^ f.fracBits := by exact_mod_cast hm1
        have hle : v ≤ (m + 1 / 2) * (2 : ℝ) ^ (f.minExp + q) := by linarith [hnear'.1]
        have hge : (m + 1 / 2 : ℝ) ≥ 2 * 2 ^ f.fracBits - 1 / 2 := by
          have := h.trans hle
          exact le_of_mul_le_mul_right this hw
        have hmeq : (m : ℝ) + 1 = 2 * 2 ^ f.fracBits := by linarith
        have hmeq' : m + 1 = 2 * 2 ^ f.fracBits := by exact_mod_cast hmeq
        have hveq : v = (m + 1 / 2) * (2 : ℝ) ^ (f.minExp + q) := by
          apply le_antisymm hle
          rw [show (m : ℝ) + 1 / 2 = 2 * 2 ^ f.fracBits - 1 / 2 by linarith]
          exact h
        have := htie (by
          rw [hveq, show (m : ℝ) * (2 : ℝ) ^ (f.minExp + q) - (m + 1 / 2) * (2 : ℝ) ^ (f.minExp + q) =
            -((2 : ℝ) ^ (f.minExp + q) / 2) by ring, abs_neg, abs_of_pos (by positivity)])
        omega
      · have : (2 : ℝ) * 2 ^ (f.minExp + q) ≤ 2 ^ (f.minExp + T) := by
          rw [← zpow_one_add₀ two_ne_zero]
          exact zpow_le_zpow_right₀ one_le_two (by omega)
        nlinarith [hnear'.1]
  refine ⟨fun h => ?_, fun h => ?_⟩
  · rw [habs, ← key] at h
    rw [if_pos h, f.unpack_infinity]
  · rw [habs] at h
    have hfin : ¬f.maxField * 2 ^ f.fracBits ≤ q * 2 ^ f.fracBits + m := fun hc => absurd (key.1 hc) (not_le.2 h)
    rw [if_neg hfin]
    obtain ⟨sig, exp, hu, hval⟩ : ∃ sig exp, f.unpack (f.signBit neg + (q * 2 ^ f.fracBits + m)) = .finite neg sig exp ∧
        (sig : ℝ) * 2 ^ exp = m * (2 : ℝ) ^ (f.minExp + q) := by
      by_cases hfull : m = 2 * 2 ^ f.fracBits
      · refine ⟨2 ^ f.fracBits, f.minExp + (q + 1 : Nat), ?_, ?_⟩
        · have e : q * 2 ^ f.fracBits + m = (q + 1) * 2 ^ f.fracBits + 2 ^ f.fracBits := by rw [hfull]; ring
          rw [e] at hfin ⊢
          exact FpFormat.unpack_finite neg (Nat.pow_lt_pow_right one_lt_two (Nat.lt_succ_self _)) (.inr le_rfl) (not_le.1 hfin)
        · rw [hfull]
          push_cast
          rw [show f.minExp + ((q : Int) + 1) = 1 + (f.minExp + q) by ring, zpow_one_add₀ two_ne_zero]
          ring
      · exact ⟨m, f.minExp + q, FpFormat.unpack_finite neg (by rw [pow_succ]; omega) (hq.imp_right And.left) (not_le.1 hfin), rfl⟩
    refine ⟨sig, exp, hu, ?_⟩
    intro other neg' sig' exp' ho
    rw [ne_eq, ← Rat.cast_inj (α := ℝ), fpRat_finite_cast, fpRat_finite_cast, hval]
    have heven : m % 2 = 0 → (f.signBit neg + (q * 2 ^ f.fracBits + m)) % 2 = 0 := by
      intro h0
      have h1 : 2 ∣ f.signBit neg := by
        cases neg with
        | false => simp [FpFormat.signBit]
        | true => exact dvd_pow_self 2 (by omega)
      have h2 : 2 ∣ q * 2 ^ f.fracBits := Dvd.dvd.mul_left (dvd_pow_self 2 (by omega)) q
      omega
    -- compare magnitudes with the sign of `v` taken out
    obtain ⟨y, hy, hyc⟩ : ∃ y : ℝ, (if neg' then -1 else 1) * ((sig' : ℝ) * 2 ^ exp') = (if neg then -1 else 1) * y ∧
        ((∃ j : ℤ, y = j * (2 : ℝ) ^ (f.minExp + q)) ∨ (0 < q ∧ y < (2 : ℝ) ^ f.fracBits * 2 ^ (f.minExp + q))) := by
      have hpos : 0 ≤ (sig' : ℝ) * 2 ^ exp' := by positivity
      refine ⟨(if neg then -1 else 1) * ((if neg' then -1 else 1) * ((sig' : ℝ) * 2 ^ exp')), by cases neg <;> simp, ?_⟩
      obtain ⟨j, hj⟩ | ⟨hlt, hsm⟩ := FpFormat.finite_multiple_or_small ho (f.minExp + q)
      · refine .inl ⟨(if neg then -1 else 1) * ((if neg' then -1 else 1) * j), ?_⟩
        rw [hj]
        cases neg <;> cases neg' <;> simp
      · refine .inr ⟨by omega, ?_⟩
        have : (0 : ℝ) < 2 ^ f.fracBits * 2 ^ (f.minExp + q) := by positivity
        cases neg <;> cases neg' <;> simp at hsm ⊢ <;> linarith
    rw [hy]
    have hs : ∀ a : ℝ, |(if neg then -1 else 1) * a - (if neg then -1 else 1) * v| = |a - v| := by
      intro a
      cases neg
      · simp
      · rw [← mul_sub, abs_mul]
        simp
    rw [hs, hs]
    have main : |(m : ℝ) * 2 ^ (f.minExp + q) - v| ≤ |y - v| ∧
        (|(m : ℝ) * 2 ^ (f.minExp + q) - v| = |y - v| → y ≠ m * (2 : ℝ) ^ (f.minExp + q) → m % 2 = 0) := by
      obtain ⟨j, rfl⟩ | ⟨hq0, hsm⟩ := hyc
      · by_cases hj : j = (m : ℤ)
        · subst hj
          exact ⟨le_rfl, fun _ hne => absurd rfl hne⟩
        · have := nearest_of_multiple (m := (m : ℤ)) hw (by exact_mod_cast hnear) hj
          push_cast at this
          exact ⟨this.1, fun he _ => htie (this.2 he)⟩
      · obtain h0 | ⟨-, hge⟩ := hq
        · omega
        have hlt : |(2 : ℝ) ^ f.fracBits * 2 ^ (f.minExp + q) - v| < |y - v| := by
          rw [abs_of_nonpos (by linarith), abs_of_neg (by linarith)]
          linarith
        have hle : |(m : ℝ) * 2 ^ (f.minExp + q) - v| ≤ |(2 : ℝ) ^ f.fracBits * 2 ^ (f.minExp + q) - v| := by
          by_cases hj : ((2 ^ f.fracBits : ℕ) : ℤ) = (m : ℤ)
          · have : (m : ℝ) = 2 ^ f.fracBits := by exact_mod_cast hj.symm
            rw [this]
          · have := (nearest_of_multiple (m := (m : ℤ)) hw (by exact_mod_cast hnear) hj).1
            push_cast at this
            exact this
        exact ⟨by linarith, fun he _ => by linarith⟩
    refine ⟨main.1, fun he hne => heven (main.2 he fun hc => hne ?_)⟩
    rw [hc]

/-- How the exact result `u` of an operation lies to the integer `sig` that stands for it: equal, or `sig` is odd (its last bit is
sticky) and `u` lies strictly between its neighbours. -/
def Represents (sig : Nat) (u : ℝ) : Prop :=
  u = sig ∨ (sig % 2 = 1 ∧ (sig : ℝ) - 1 < u ∧ u < sig + 1)

/-- Rounding an integer with a sticky bit rounds the exact result, if a sticky bit is at least two places below the result's last. -/
theorem roundShift_nearest {sig k : Nat} {u : ℝ} (h : Represents sig u) (hk : u = sig ∨ 2 ≤ k) :
    |(roundShift sig k : ℝ) * 2 ^ k - u| ≤ 2 ^ k / 2 ∧ (|(roundShift sig k : ℝ) * 2 ^ k - u| = 2 ^ k / 2 → 1 ≤ k →
      roundShift sig k % 2 = 0) := by
  have hp := Nat.two_pow_pos k
  have hdiv : sig >>> k * 2 ^ k + sig % 2 ^ k = sig := by
    rw [Nat.shiftRight_eq_div_pow]
    exact Nat.div_add_mod' sig (2 ^ k)
  have hr := Nat.mod_lt sig hp
  have hdivr : ((sig >>> k : ℕ) : ℝ) * 2 ^ k + (sig % 2 ^ k : ℕ) = sig := by exact_mod_cast hdiv
  have hrr : ((sig % 2 ^ k : ℕ) : ℝ) < 2 ^ k := by exact_mod_cast hr
  simp only [roundShift]
  generalize sig >>> k = q at *
  generalize sig % 2 ^ k = r at *
  have hr0 : (0 : ℝ) ≤ r := Nat.cast_nonneg r
  by_cases hus : u = sig
  · subst hus
    split
    · rename_i hc
      have hge : (2 : ℝ) ^ k ≤ 2 * r := by exact_mod_cast (by omega : 2 ^ k ≤ 2 * r)
      push_cast
      constructor
      · rw [abs_le]
        constructor <;> linarith
      · intro he _
        rw [abs_of_nonneg (by linarith)] at he
        have : 2 * (r : ℝ) = 2 ^ k := by linarith
        have : 2 * r = 2 ^ k := by exact_mod_cast this
        omega
    · rename_i hc
      have hle : 2 * (r : ℝ) ≤ 2 ^ k := by exact_mod_cast (by omega : 2 * r ≤ 2 ^ k)
      constructor
      · rw [abs_le]
        constructor <;> linarith
      · intro he _
        rw [abs_of_nonpos (by linarith)] at he
        have : 2 * (r : ℝ) = 2 ^ k := by linarith
        have : 2 * r = 2 ^ k := by exact_mod_cast this
        omega
  · obtain ⟨hodd, hlo, hhi⟩ := h.resolve_left hus
    obtain ⟨d, hd⟩ : 4 ∣ 2 ^ k := pow_dvd_pow 2 (hk.resolve_left hus)
    have hrodd : r % 2 = 1 := by
      have : q * 2 ^ k = 2 * (q * (2 * d)) := by rw [hd]; ring
      omega
    split
    · rename_i hc
      have hge : (2 : ℝ) ^ k + 2 ≤ 2 * r := by exact_mod_cast (by omega : 2 ^ k + 2 ≤ 2 * r)
      have hup : (r : ℝ) + 1 ≤ 2 ^ k := by exact_mod_cast hr
      push_cast
      have : |((q : ℝ) + 1) * 2 ^ k - u| < 2 ^ k / 2 := by
        rw [abs_lt]
        constructor <;> linarith
      exact ⟨this.le, fun he => absurd he this.ne⟩
    · rename_i hc
      have hle : 2 * (r : ℝ) + 2 ≤ 2 ^ k := by exact_mod_cast (by omega : 2 * r + 2 ≤ 2 ^ k)
      have hlow : (1 : ℝ) ≤ r := by exact_mod_cast (by omega : 1 ≤ r)
      have : |(q : ℝ) * 2 ^ k - u| < 2 ^ k / 2 := by
        rw [abs_lt]
        constructor <;> linarith
      exact ⟨this.le, fun he => absurd he this.ne⟩

/-- Rounding is the floor or one more. -/
theorem roundShift_bounds (sig k : Nat) : sig >>> k ≤ roundShift sig k ∧ roundShift sig k ≤ sig >>> k + 1 := by
  simp only [roundShift]
  split <;> omega

/-- The exact result is at least the leading bit of the integer that stands for it. -/
theorem Represents.log2_le {sig : Nat} {u : ℝ} (h : Represents sig u) (hsig : sig ≠ 0) (hlog : u = sig ∨ 1 ≤ Nat.log2 sig) :
    (2 : ℝ) ^ Nat.log2 sig ≤ u := by
  have hle := Nat.log2_self_le hsig
  by_cases hus : u = sig
  · rw [hus]
    exact_mod_cast hle
  · obtain ⟨hodd, hlo, -⟩ := h.resolve_left hus
    have hne : 2 ^ Nat.log2 sig ≠ sig := by
      intro he
      have := hlog.resolve_left hus
      have : 2 ∣ 2 ^ Nat.log2 sig := dvd_pow_self 2 (by omega)
      omega
    have : (2 : ℝ) ^ Nat.log2 sig + 1 ≤ sig := by exact_mod_cast lt_of_le_of_ne hle hne
    linarith

/-- What `FpFormat.pack` does: the pattern of ±sig·2^exp is the rounding of the exact result ±u·2^exp that `sig` represents, if a
sticky bit is at least two places below the last place of a full significand (R11). -/
theorem FpFormat.pack_rounds {f : FpFormat} (hfrac : 1 ≤ f.fracBits) (hmax : 2 ≤ f.maxField) (neg : Bool) {sig : Nat} (exp : Int)
    {u : ℝ} (hsig : sig ≠ 0) (h : Represents sig u) (hbits : u = sig ∨ f.fracBits + 2 ≤ Nat.log2 sig) :
    f.Rounds neg ((if neg then -1 else 1) * (u * 2 ^ exp)) (f.pack neg sig exp) := by
  have hlog := Nat.log2_self_le hsig
  have hlog' : sig < 2 ^ (Nat.log2 sig + 1) := Nat.lt_log2_self
  have hulow := h.log2_le hsig (hbits.imp_right fun hb => by omega)
  have hexp : (0 : ℝ) < 2 ^ exp := by positivity
  simp only [FpFormat.pack, if_neg hsig]
  obtain ⟨q, hQ⟩ : ∃ q : Nat, max (exp + (Nat.log2 sig : Int) - f.fracBits) f.minExp = f.minExp + q :=
    ⟨(max (exp + (Nat.log2 sig : Int) - f.fracBits) f.minExp - f.minExp).toNat, by omega⟩
  simp only [hQ, show (f.minExp + (q : Int) - f.minExp).toNat = q by omega]
  have hv : 0 ≤ u * 2 ^ exp := mul_nonneg (le_trans (by positivity) hulow) hexp.le
  have hrange : q ≠ 0 → (2 : ℝ) ^ f.fracBits * 2 ^ (f.minExp + q) ≤ u * 2 ^ exp := by
    intro hq
    have e : (2 : ℝ) ^ f.fracBits * 2 ^ (f.minExp + q) = 2 ^ Nat.log2 sig * 2 ^ exp := by
      rw [← zpow_natCast, ← zpow_natCast, ← zpow_add₀ two_ne_zero, ← zpow_add₀ two_ne_zero]
      congr 1
      omega
    rw [e]
    exact mul_le_mul_of_nonneg_right hulow hexp.le
  by_cases hle : f.minExp + q ≤ exp
  · -- no bit is rounded away
    have hus : u = sig := hbits.resolve_right (by omega)
    obtain ⟨d, hd⟩ : ∃ d : Nat, exp = f.minExp + q + d := ⟨(exp - (f.minExp + q)).toNat, by omega⟩
    have hval : ((sig <<< d : ℕ) : ℝ) * 2 ^ (f.minExp + q) = u * 2 ^ exp := by
      rw [hus, hd, zpow_add₀ two_ne_zero (f.minExp + q), zpow_natCast, Nat.shiftLeft_eq]
      push_cast
      ring
    simp only [if_pos hle, show (exp - (f.minExp + (q : Int))).toNat = d by omega]
    have hw : (0 : ℝ) < 2 ^ (f.minExp + q) := by positivity
    refine FpFormat.rounds_of_nearest hfrac hmax neg hv ?_ ?_ ?_ ?_
    · rw [Nat.shiftLeft_eq]
      calc sig * 2 ^ d ≤ 2 ^ (Nat.log2 sig + 1) * 2 ^ d := Nat.mul_le_mul_right _ hlog'.le
        _ = 2 ^ (Nat.log2 sig + 1 + d) := (pow_add 2 _ _).symm
        _ ≤ 2 ^ (f.fracBits + 1) := Nat.pow_le_pow_right (by omega) (by omega)
    · by_cases hq : q = 0
      · exact .inl hq
      · refine .inr ⟨?_, hrange hq⟩
        rw [Nat.shiftLeft_eq]
        calc 2 ^ f.fracBits = 2 ^ Nat.log2 sig * 2 ^ d := by rw [← pow_add]; congr 1; omega
          _ ≤ sig * 2 ^ d := Nat.mul_le_mul_right _ hlog
    · rw [hval, sub_self, abs_zero]
      positivity
    · intro he
      rw [hval, sub_self, abs_zero] at he
      linarith
  · obtain ⟨k, hk⟩ : ∃ k : Nat, f.minExp + q = exp + k := ⟨(f.minExp + q - exp).toNat, by omega⟩
    have hk1 : 1 ≤ k := by omega
    simp only [if_neg hle, show (f.minExp + (q : Int) - exp).toNat = k by omega]
    obtain ⟨hb1, hb2⟩ := roundShift_bounds sig k
    rw [Nat.shiftRight_eq_div_pow] at hb1 hb2
    obtain ⟨hn, ht⟩ := roundShift_nearest h (k := k) (hbits.imp_right fun hb => by omega)
    have hdiff : |(roundShift sig k : ℝ) * 2 ^ (f.minExp + q) - u * 2 ^ exp| =
        |(roundShift sig k : ℝ) * 2 ^ k - u| * 2 ^ exp := by
      rw [hk, zpow_add₀ two_ne_zero, zpow_natCast, ← abs_of_pos hexp, ← abs_mul, abs_of_pos hexp]
      congr 1
      ring
    have hhalf : (2 : ℝ) ^ (f.minExp + q) / 2 = 2 ^ k / 2 * 2 ^ exp := by
      rw [hk, zpow_add₀ two_ne_zero, zpow_natCast]
      ring
    refine FpFormat.rounds_of_nearest hfrac hmax neg hv ?_ ?_ ?_ ?_
    · have : sig / 2 ^ k < 2 ^ (f.fracBits + 1) := by
        refine Nat.div_lt_of_lt_mul (lt_of_lt_of_le hlog' ?_)
        rw [← pow_add]
        exact Nat.pow_le_pow_right (by omega) (by omega)
      omega
    · by_cases hq : q = 0
      · exact .inl hq
      · refine .inr ⟨le_trans ?_ hb1, hrange hq⟩
        rw [Nat.le_div_iff_mul_le (Nat.two_pow_pos k), ← pow_add]
        exact le_trans (Nat.pow_le_pow_right (by omega) (by omega)) hlog
    · rw [hdiff, hhalf]
      exact mul_le_mul_of_nonneg_right hn hexp.le
    · intro he
      rw [hdiff, hhalf] at he
      exact ht (mul_right_cancel₀ hexp.ne' he) hk1

/-- A zero packs to the zero of its sign. -/
theorem FpFormat.pack_zero (f : FpFormat) (neg : Bool) (exp : Int) : f.pack neg 0 exp = f.signBit neg := by
  simp [FpFormat.pack]

/-- The sticky quotient stands for twice the exact scaled quotient. -/
theorem quotientSticky_represents {k sa sb : Nat} (hb : sb ≠ 0) :
    Represents (quotientSticky k sa sb) (2 * ((sa : ℝ) * 2 ^ k / sb)) := by
  have hbr : (0 : ℝ) < sb := by exact_mod_cast Nat.pos_of_ne_zero hb
  have hdiv := Nat.div_add_mod (sa <<< k) sb
  have hmod := Nat.mod_lt (sa <<< k) (Nat.pos_of_ne_zero hb)
  have hdivr : (sb : ℝ) * (sa <<< k / sb : ℕ) + (sa <<< k % sb : ℕ) = sa * 2 ^ k := by
    rw [Nat.shiftLeft_eq] at hdiv ⊢
    exact_mod_cast hdiv
  have hmodr : ((sa <<< k % sb : ℕ) : ℝ) < sb := by exact_mod_cast hmod
  simp only [quotientSticky]
  generalize sa <<< k / sb = q at *
  generalize sa <<< k % sb = r at *
  rw [← hdivr]
  split
  · rename_i h
    subst h
    left
    field_simp
    push_cast
    ring
  · rename_i h
    have hr : (0 : ℝ) < r := by exact_mod_cast Nat.pos_of_ne_zero h
    have e : ((sb : ℝ) * q + r) / sb = q + r / sb := by field_simp
    have h1 : (r : ℝ) / sb < 1 := (div_lt_one hbr).2 hmodr
    have h2 : 0 < (r : ℝ) / sb := div_pos hr hbr
    refine .inr ⟨by omega, ?_, ?_⟩ <;> rw [e] <;> push_cast <;> linarith

/-- The sticky quotient has all the bits of the scale that the divisor does not take. -/
theorem quotientSticky_log2 {k n sa sb : Nat} (ha : sa ≠ 0) (hb : sb ≠ 0) (h : sb < 2 ^ n) (hn : n ≤ k) :
    k - n + 1 ≤ Nat.log2 (quotientSticky k sa sb) := by
  have hq : 2 ^ (k - n) ≤ sa <<< k / sb := by
    rw [Nat.le_div_iff_mul_le (Nat.pos_of_ne_zero hb), Nat.shiftLeft_eq]
    calc 2 ^ (k - n) * sb ≤ 2 ^ (k - n) * 2 ^ n := Nat.mul_le_mul_left _ h.le
      _ = 2 ^ k := by rw [← pow_add, Nat.sub_add_cancel hn]
      _ ≤ sa * 2 ^ k := Nat.le_mul_of_pos_left _ (Nat.pos_of_ne_zero ha)
  have hle : 2 ^ (k - n + 1) ≤ quotientSticky k sa sb := by
    rw [quotientSticky, pow_succ]
    omega
  rw [Nat.le_log2 (by have := Nat.two_pow_pos (k - n + 1); omega)]
  exact hle

end Sys2Proof.Machine
end

