-- ==== Sys2Proof/Laws/State.lean ====
section
/-! SUPPORT. The small lemmas of the state: one for each register and each write of Sys2Proof/Machine/Ops.lean, and one for each
part of the state and each update of it. With them no proof unfolds a record update. -/

namespace Sys2Proof.Machine

/-! ### `Regs.setCmd` -/

@[simp] theorem Regs.setCmd_cmd (r : Regs) (v : Word) : (r.setCmd v).cmd = v := rfl
@[simp] theorem Regs.setCmd_arg0 (r : Regs) (v : Word) : (r.setCmd v).arg0 = r.arg0 := rfl
@[simp] theorem Regs.setCmd_arg1 (r : Regs) (v : Word) : (r.setCmd v).arg1 = r.arg1 := rfl
@[simp] theorem Regs.setCmd_code (r : Regs) (v : Word) : (r.setCmd v).code = r.code := rfl
@[simp] theorem Regs.setCmd_anomaly (r : Regs) (v : Word) : (r.setCmd v).anomaly = r.anomaly := rfl
@[simp] theorem Regs.setCmd_bound (r : Regs) (v : Word) : (r.setCmd v).bound = r.bound := rfl
@[simp] theorem Regs.setCmd_dataValid (r : Regs) (v : Word) : (r.setCmd v).dataValid = r.dataValid := rfl
@[simp] theorem Regs.setCmd_result (r : Regs) (v : Word) : (r.setCmd v).result = r.result := rfl
@[simp] theorem Regs.setCmd_id (r : Regs) (v : Word) : (r.setCmd v).id = r.id := rfl
@[simp] theorem Regs.setCmd_powerStatus (r : Regs) (v : Word) : (r.setCmd v).powerStatus = r.powerStatus := rfl
@[simp] theorem Regs.setCmd_ofsX (r : Regs) (v : Word) : (r.setCmd v).ofsX = r.ofsX := rfl
@[simp] theorem Regs.setCmd_ofsY (r : Regs) (v : Word) : (r.setCmd v).ofsY = r.ofsY := rfl
@[simp] theorem Regs.setCmd_ofsZ (r : Regs) (v : Word) : (r.setCmd v).ofsZ = r.ofsZ := rfl
@[simp] theorem Regs.setCmd_raw (r : Regs) (v : Word) : (r.setCmd v).raw = r.raw := rfl
@[simp] theorem Regs.setCmd_sampleX (r : Regs) (v : Word) : (r.setCmd v).sampleX = r.sampleX := rfl
@[simp] theorem Regs.setCmd_sampleY (r : Regs) (v : Word) : (r.setCmd v).sampleY = r.sampleY := rfl
@[simp] theorem Regs.setCmd_sampleZ (r : Regs) (v : Word) : (r.setCmd v).sampleZ = r.sampleZ := rfl
@[simp] theorem Regs.setCmd_roll (r : Regs) (v : Word) : (r.setCmd v).roll = r.roll := rfl
@[simp] theorem Regs.setCmd_pitch (r : Regs) (v : Word) : (r.setCmd v).pitch = r.pitch := rfl
@[simp] theorem Regs.setCmd_flags (r : Regs) (v : Word) : (r.setCmd v).flags = r.flags := rfl
@[simp] theorem Regs.setCmd_busAddr (r : Regs) (v : Word) : (r.setCmd v).busAddr = r.busAddr := rfl

/-! ### `Regs.setArg0` -/

@[simp] theorem Regs.setArg0_cmd (r : Regs) (v : Word) : (r.setArg0 v).cmd = r.cmd := rfl
@[simp] theorem Regs.setArg0_arg0 (r : Regs) (v : Word) : (r.setArg0 v).arg0 = v := rfl
@[simp] theorem Regs.setArg0_arg1 (r : Regs) (v : Word) : (r.setArg0 v).arg1 = r.arg1 := rfl
@[simp] theorem Regs.setArg0_code (r : Regs) (v : Word) : (r.setArg0 v).code = r.code := rfl
@[simp] theorem Regs.setArg0_anomaly (r : Regs) (v : Word) : (r.setArg0 v).anomaly = r.anomaly := rfl
@[simp] theorem Regs.setArg0_bound (r : Regs) (v : Word) : (r.setArg0 v).bound = r.bound := rfl
@[simp] theorem Regs.setArg0_dataValid (r : Regs) (v : Word) : (r.setArg0 v).dataValid = r.dataValid := rfl
@[simp] theorem Regs.setArg0_result (r : Regs) (v : Word) : (r.setArg0 v).result = r.result := rfl
@[simp] theorem Regs.setArg0_id (r : Regs) (v : Word) : (r.setArg0 v).id = r.id := rfl
@[simp] theorem Regs.setArg0_powerStatus (r : Regs) (v : Word) : (r.setArg0 v).powerStatus = r.powerStatus := rfl
@[simp] theorem Regs.setArg0_ofsX (r : Regs) (v : Word) : (r.setArg0 v).ofsX = r.ofsX := rfl
@[simp] theorem Regs.setArg0_ofsY (r : Regs) (v : Word) : (r.setArg0 v).ofsY = r.ofsY := rfl
@[simp] theorem Regs.setArg0_ofsZ (r : Regs) (v : Word) : (r.setArg0 v).ofsZ = r.ofsZ := rfl
@[simp] theorem Regs.setArg0_raw (r : Regs) (v : Word) : (r.setArg0 v).raw = r.raw := rfl
@[simp] theorem Regs.setArg0_sampleX (r : Regs) (v : Word) : (r.setArg0 v).sampleX = r.sampleX := rfl
@[simp] theorem Regs.setArg0_sampleY (r : Regs) (v : Word) : (r.setArg0 v).sampleY = r.sampleY := rfl
@[simp] theorem Regs.setArg0_sampleZ (r : Regs) (v : Word) : (r.setArg0 v).sampleZ = r.sampleZ := rfl
@[simp] theorem Regs.setArg0_roll (r : Regs) (v : Word) : (r.setArg0 v).roll = r.roll := rfl
@[simp] theorem Regs.setArg0_pitch (r : Regs) (v : Word) : (r.setArg0 v).pitch = r.pitch := rfl
@[simp] theorem Regs.setArg0_flags (r : Regs) (v : Word) : (r.setArg0 v).flags = r.flags := rfl
@[simp] theorem Regs.setArg0_busAddr (r : Regs) (v : Word) : (r.setArg0 v).busAddr = r.busAddr := rfl

/-! ### `Regs.setArg1` -/

@[simp] theorem Regs.setArg1_cmd (r : Regs) (v : Word) : (r.setArg1 v).cmd = r.cmd := rfl
@[simp] theorem Regs.setArg1_arg0 (r : Regs) (v : Word) : (r.setArg1 v).arg0 = r.arg0 := rfl
@[simp] theorem Regs.setArg1_arg1 (r : Regs) (v : Word) : (r.setArg1 v).arg1 = v := rfl
@[simp] theorem Regs.setArg1_code (r : Regs) (v : Word) : (r.setArg1 v).code = r.code := rfl
@[simp] theorem Regs.setArg1_anomaly (r : Regs) (v : Word) : (r.setArg1 v).anomaly = r.anomaly := rfl
@[simp] theorem Regs.setArg1_bound (r : Regs) (v : Word) : (r.setArg1 v).bound = r.bound := rfl
@[simp] theorem Regs.setArg1_dataValid (r : Regs) (v : Word) : (r.setArg1 v).dataValid = r.dataValid := rfl
@[simp] theorem Regs.setArg1_result (r : Regs) (v : Word) : (r.setArg1 v).result = r.result := rfl
@[simp] theorem Regs.setArg1_id (r : Regs) (v : Word) : (r.setArg1 v).id = r.id := rfl
@[simp] theorem Regs.setArg1_powerStatus (r : Regs) (v : Word) : (r.setArg1 v).powerStatus = r.powerStatus := rfl
@[simp] theorem Regs.setArg1_ofsX (r : Regs) (v : Word) : (r.setArg1 v).ofsX = r.ofsX := rfl
@[simp] theorem Regs.setArg1_ofsY (r : Regs) (v : Word) : (r.setArg1 v).ofsY = r.ofsY := rfl
@[simp] theorem Regs.setArg1_ofsZ (r : Regs) (v : Word) : (r.setArg1 v).ofsZ = r.ofsZ := rfl
@[simp] theorem Regs.setArg1_raw (r : Regs) (v : Word) : (r.setArg1 v).raw = r.raw := rfl
@[simp] theorem Regs.setArg1_sampleX (r : Regs) (v : Word) : (r.setArg1 v).sampleX = r.sampleX := rfl
@[simp] theorem Regs.setArg1_sampleY (r : Regs) (v : Word) : (r.setArg1 v).sampleY = r.sampleY := rfl
@[simp] theorem Regs.setArg1_sampleZ (r : Regs) (v : Word) : (r.setArg1 v).sampleZ = r.sampleZ := rfl
@[simp] theorem Regs.setArg1_roll (r : Regs) (v : Word) : (r.setArg1 v).roll = r.roll := rfl
@[simp] theorem Regs.setArg1_pitch (r : Regs) (v : Word) : (r.setArg1 v).pitch = r.pitch := rfl
@[simp] theorem Regs.setArg1_flags (r : Regs) (v : Word) : (r.setArg1 v).flags = r.flags := rfl
@[simp] theorem Regs.setArg1_busAddr (r : Regs) (v : Word) : (r.setArg1 v).busAddr = r.busAddr := rfl

/-! ### `Regs.setCode` -/

@[simp] theorem Regs.setCode_cmd (r : Regs) (v : BitVec 2) : (r.setCode v).cmd = r.cmd := rfl
@[simp] theorem Regs.setCode_arg0 (r : Regs) (v : BitVec 2) : (r.setCode v).arg0 = r.arg0 := rfl
@[simp] theorem Regs.setCode_arg1 (r : Regs) (v : BitVec 2) : (r.setCode v).arg1 = r.arg1 := rfl
@[simp] theorem Regs.setCode_code (r : Regs) (v : BitVec 2) : (r.setCode v).code = v := rfl
@[simp] theorem Regs.setCode_anomaly (r : Regs) (v : BitVec 2) : (r.setCode v).anomaly = r.anomaly := rfl
@[simp] theorem Regs.setCode_bound (r : Regs) (v : BitVec 2) : (r.setCode v).bound = r.bound := rfl
@[simp] theorem Regs.setCode_dataValid (r : Regs) (v : BitVec 2) : (r.setCode v).dataValid = r.dataValid := rfl
@[simp] theorem Regs.setCode_result (r : Regs) (v : BitVec 2) : (r.setCode v).result = r.result := rfl
@[simp] theorem Regs.setCode_id (r : Regs) (v : BitVec 2) : (r.setCode v).id = r.id := rfl
@[simp] theorem Regs.setCode_powerStatus (r : Regs) (v : BitVec 2) : (r.setCode v).powerStatus = r.powerStatus := rfl
@[simp] theorem Regs.setCode_ofsX (r : Regs) (v : BitVec 2) : (r.setCode v).ofsX = r.ofsX := rfl
@[simp] theorem Regs.setCode_ofsY (r : Regs) (v : BitVec 2) : (r.setCode v).ofsY = r.ofsY := rfl
@[simp] theorem Regs.setCode_ofsZ (r : Regs) (v : BitVec 2) : (r.setCode v).ofsZ = r.ofsZ := rfl
@[simp] theorem Regs.setCode_raw (r : Regs) (v : BitVec 2) : (r.setCode v).raw = r.raw := rfl
@[simp] theorem Regs.setCode_sampleX (r : Regs) (v : BitVec 2) : (r.setCode v).sampleX = r.sampleX := rfl
@[simp] theorem Regs.setCode_sampleY (r : Regs) (v : BitVec 2) : (r.setCode v).sampleY = r.sampleY := rfl
@[simp] theorem Regs.setCode_sampleZ (r : Regs) (v : BitVec 2) : (r.setCode v).sampleZ = r.sampleZ := rfl
@[simp] theorem Regs.setCode_roll (r : Regs) (v : BitVec 2) : (r.setCode v).roll = r.roll := rfl
@[simp] theorem Regs.setCode_pitch (r : Regs) (v : BitVec 2) : (r.setCode v).pitch = r.pitch := rfl
@[simp] theorem Regs.setCode_flags (r : Regs) (v : BitVec 2) : (r.setCode v).flags = r.flags := rfl
@[simp] theorem Regs.setCode_busAddr (r : Regs) (v : BitVec 2) : (r.setCode v).busAddr = r.busAddr := rfl

/-! ### `Regs.setAnomaly` -/

@[simp] theorem Regs.setAnomaly_cmd (r : Regs) (v : Bool) : (r.setAnomaly v).cmd = r.cmd := rfl
@[simp] theorem Regs.setAnomaly_arg0 (r : Regs) (v : Bool) : (r.setAnomaly v).arg0 = r.arg0 := rfl
@[simp] theorem Regs.setAnomaly_arg1 (r : Regs) (v : Bool) : (r.setAnomaly v).arg1 = r.arg1 := rfl
@[simp] theorem Regs.setAnomaly_code (r : Regs) (v : Bool) : (r.setAnomaly v).code = r.code := rfl
@[simp] theorem Regs.setAnomaly_anomaly (r : Regs) (v : Bool) : (r.setAnomaly v).anomaly = v := rfl
@[simp] theorem Regs.setAnomaly_bound (r : Regs) (v : Bool) : (r.setAnomaly v).bound = r.bound := rfl
@[simp] theorem Regs.setAnomaly_dataValid (r : Regs) (v : Bool) : (r.setAnomaly v).dataValid = r.dataValid := rfl
@[simp] theorem Regs.setAnomaly_result (r : Regs) (v : Bool) : (r.setAnomaly v).result = r.result := rfl
@[simp] theorem Regs.setAnomaly_id (r : Regs) (v : Bool) : (r.setAnomaly v).id = r.id := rfl
@[simp] theorem Regs.setAnomaly_powerStatus (r : Regs) (v : Bool) : (r.setAnomaly v).powerStatus = r.powerStatus := rfl
@[simp] theorem Regs.setAnomaly_ofsX (r : Regs) (v : Bool) : (r.setAnomaly v).ofsX = r.ofsX := rfl
@[simp] theorem Regs.setAnomaly_ofsY (r : Regs) (v : Bool) : (r.setAnomaly v).ofsY = r.ofsY := rfl
@[simp] theorem Regs.setAnomaly_ofsZ (r : Regs) (v : Bool) : (r.setAnomaly v).ofsZ = r.ofsZ := rfl
@[simp] theorem Regs.setAnomaly_raw (r : Regs) (v : Bool) : (r.setAnomaly v).raw = r.raw := rfl
@[simp] theorem Regs.setAnomaly_sampleX (r : Regs) (v : Bool) : (r.setAnomaly v).sampleX = r.sampleX := rfl
@[simp] theorem Regs.setAnomaly_sampleY (r : Regs) (v : Bool) : (r.setAnomaly v).sampleY = r.sampleY := rfl
@[simp] theorem Regs.setAnomaly_sampleZ (r : Regs) (v : Bool) : (r.setAnomaly v).sampleZ = r.sampleZ := rfl
@[simp] theorem Regs.setAnomaly_roll (r : Regs) (v : Bool) : (r.setAnomaly v).roll = r.roll := rfl
@[simp] theorem Regs.setAnomaly_pitch (r : Regs) (v : Bool) : (r.setAnomaly v).pitch = r.pitch := rfl
@[simp] theorem Regs.setAnomaly_flags (r : Regs) (v : Bool) : (r.setAnomaly v).flags = r.flags := rfl
@[simp] theorem Regs.setAnomaly_busAddr (r : Regs) (v : Bool) : (r.setAnomaly v).busAddr = r.busAddr := rfl

/-! ### `Regs.noteAnomaly` -/

@[simp] theorem Regs.noteAnomaly_cmd (r : Regs) (c : Bool) : (r.noteAnomaly c).cmd = r.cmd := rfl
@[simp] theorem Regs.noteAnomaly_arg0 (r : Regs) (c : Bool) : (r.noteAnomaly c).arg0 = r.arg0 := rfl
@[simp] theorem Regs.noteAnomaly_arg1 (r : Regs) (c : Bool) : (r.noteAnomaly c).arg1 = r.arg1 := rfl
@[simp] theorem Regs.noteAnomaly_code (r : Regs) (c : Bool) : (r.noteAnomaly c).code = r.code := rfl
@[simp] theorem Regs.noteAnomaly_anomaly (r : Regs) (c : Bool) : (r.noteAnomaly c).anomaly = (r.anomaly || c) := rfl
@[simp] theorem Regs.noteAnomaly_bound (r : Regs) (c : Bool) : (r.noteAnomaly c).bound = r.bound := rfl
@[simp] theorem Regs.noteAnomaly_dataValid (r : Regs) (c : Bool) : (r.noteAnomaly c).dataValid = r.dataValid := rfl
@[simp] theorem Regs.noteAnomaly_result (r : Regs) (c : Bool) : (r.noteAnomaly c).result = r.result := rfl
@[simp] theorem Regs.noteAnomaly_id (r : Regs) (c : Bool) : (r.noteAnomaly c).id = r.id := rfl
@[simp] theorem Regs.noteAnomaly_powerStatus (r : Regs) (c : Bool) : (r.noteAnomaly c).powerStatus = r.powerStatus := rfl
@[simp] theorem Regs.noteAnomaly_ofsX (r : Regs) (c : Bool) : (r.noteAnomaly c).ofsX = r.ofsX := rfl
@[simp] theorem Regs.noteAnomaly_ofsY (r : Regs) (c : Bool) : (r.noteAnomaly c).ofsY = r.ofsY := rfl
@[simp] theorem Regs.noteAnomaly_ofsZ (r : Regs) (c : Bool) : (r.noteAnomaly c).ofsZ = r.ofsZ := rfl
@[simp] theorem Regs.noteAnomaly_raw (r : Regs) (c : Bool) : (r.noteAnomaly c).raw = r.raw := rfl
@[simp] theorem Regs.noteAnomaly_sampleX (r : Regs) (c : Bool) : (r.noteAnomaly c).sampleX = r.sampleX := rfl
@[simp] theorem Regs.noteAnomaly_sampleY (r : Regs) (c : Bool) : (r.noteAnomaly c).sampleY = r.sampleY := rfl
@[simp] theorem Regs.noteAnomaly_sampleZ (r : Regs) (c : Bool) : (r.noteAnomaly c).sampleZ = r.sampleZ := rfl
@[simp] theorem Regs.noteAnomaly_roll (r : Regs) (c : Bool) : (r.noteAnomaly c).roll = r.roll := rfl
@[simp] theorem Regs.noteAnomaly_pitch (r : Regs) (c : Bool) : (r.noteAnomaly c).pitch = r.pitch := rfl
@[simp] theorem Regs.noteAnomaly_flags (r : Regs) (c : Bool) : (r.noteAnomaly c).flags = r.flags := rfl
@[simp] theorem Regs.noteAnomaly_busAddr (r : Regs) (c : Bool) : (r.noteAnomaly c).busAddr = r.busAddr := rfl

/-! ### `Regs.setResult` -/

@[simp] theorem Regs.setResult_cmd (r : Regs) (v : Word) : (r.setResult v).cmd = r.cmd := rfl
@[simp] theorem Regs.setResult_arg0 (r : Regs) (v : Word) : (r.setResult v).arg0 = r.arg0 := rfl
@[simp] theorem Regs.setResult_arg1 (r : Regs) (v : Word) : (r.setResult v).arg1 = r.arg1 := rfl
@[simp] theorem Regs.setResult_code (r : Regs) (v : Word) : (r.setResult v).code = r.code := rfl
@[simp] theorem Regs.setResult_anomaly (r : Regs) (v : Word) : (r.setResult v).anomaly = r.anomaly := rfl
@[simp] theorem Regs.setResult_bound (r : Regs) (v : Word) : (r.setResult v).bound = r.bound := rfl
@[simp] theorem Regs.setResult_dataValid (r : Regs) (v : Word) : (r.setResult v).dataValid = r.dataValid := rfl
@[simp] theorem Regs.setResult_result (r : Regs) (v : Word) : (r.setResult v).result = v := rfl
@[simp] theorem Regs.setResult_id (r : Regs) (v : Word) : (r.setResult v).id = r.id := rfl
@[simp] theorem Regs.setResult_powerStatus (r : Regs) (v : Word) : (r.setResult v).powerStatus = r.powerStatus := rfl
@[simp] theorem Regs.setResult_ofsX (r : Regs) (v : Word) : (r.setResult v).ofsX = r.ofsX := rfl
@[simp] theorem Regs.setResult_ofsY (r : Regs) (v : Word) : (r.setResult v).ofsY = r.ofsY := rfl
@[simp] theorem Regs.setResult_ofsZ (r : Regs) (v : Word) : (r.setResult v).ofsZ = r.ofsZ := rfl
@[simp] theorem Regs.setResult_raw (r : Regs) (v : Word) : (r.setResult v).raw = r.raw := rfl
@[simp] theorem Regs.setResult_sampleX (r : Regs) (v : Word) : (r.setResult v).sampleX = r.sampleX := rfl
@[simp] theorem Regs.setResult_sampleY (r : Regs) (v : Word) : (r.setResult v).sampleY = r.sampleY := rfl
@[simp] theorem Regs.setResult_sampleZ (r : Regs) (v : Word) : (r.setResult v).sampleZ = r.sampleZ := rfl
@[simp] theorem Regs.setResult_roll (r : Regs) (v : Word) : (r.setResult v).roll = r.roll := rfl
@[simp] theorem Regs.setResult_pitch (r : Regs) (v : Word) : (r.setResult v).pitch = r.pitch := rfl
@[simp] theorem Regs.setResult_flags (r : Regs) (v : Word) : (r.setResult v).flags = r.flags := rfl
@[simp] theorem Regs.setResult_busAddr (r : Regs) (v : Word) : (r.setResult v).busAddr = r.busAddr := rfl

/-! ### `Regs.setId` -/

@[simp] theorem Regs.setId_cmd (r : Regs) (v : Byte) : (r.setId v).cmd = r.cmd := rfl
@[simp] theorem Regs.setId_arg0 (r : Regs) (v : Byte) : (r.setId v).arg0 = r.arg0 := rfl
@[simp] theorem Regs.setId_arg1 (r : Regs) (v : Byte) : (r.setId v).arg1 = r.arg1 := rfl
@[simp] theorem Regs.setId_code (r : Regs) (v : Byte) : (r.setId v).code = r.code := rfl
@[simp] theorem Regs.setId_anomaly (r : Regs) (v : Byte) : (r.setId v).anomaly = r.anomaly := rfl
@[simp] theorem Regs.setId_bound (r : Regs) (v : Byte) : (r.setId v).bound = r.bound := rfl
@[simp] theorem Regs.setId_dataValid (r : Regs) (v : Byte) : (r.setId v).dataValid = r.dataValid := rfl
@[simp] theorem Regs.setId_result (r : Regs) (v : Byte) : (r.setId v).result = r.result := rfl
@[simp] theorem Regs.setId_id (r : Regs) (v : Byte) : (r.setId v).id = v := rfl
@[simp] theorem Regs.setId_powerStatus (r : Regs) (v : Byte) : (r.setId v).powerStatus = r.powerStatus := rfl
@[simp] theorem Regs.setId_ofsX (r : Regs) (v : Byte) : (r.setId v).ofsX = r.ofsX := rfl
@[simp] theorem Regs.setId_ofsY (r : Regs) (v : Byte) : (r.setId v).ofsY = r.ofsY := rfl
@[simp] theorem Regs.setId_ofsZ (r : Regs) (v : Byte) : (r.setId v).ofsZ = r.ofsZ := rfl
@[simp] theorem Regs.setId_raw (r : Regs) (v : Byte) : (r.setId v).raw = r.raw := rfl
@[simp] theorem Regs.setId_sampleX (r : Regs) (v : Byte) : (r.setId v).sampleX = r.sampleX := rfl
@[simp] theorem Regs.setId_sampleY (r : Regs) (v : Byte) : (r.setId v).sampleY = r.sampleY := rfl
@[simp] theorem Regs.setId_sampleZ (r : Regs) (v : Byte) : (r.setId v).sampleZ = r.sampleZ := rfl
@[simp] theorem Regs.setId_roll (r : Regs) (v : Byte) : (r.setId v).roll = r.roll := rfl
@[simp] theorem Regs.setId_pitch (r : Regs) (v : Byte) : (r.setId v).pitch = r.pitch := rfl
@[simp] theorem Regs.setId_flags (r : Regs) (v : Byte) : (r.setId v).flags = r.flags := rfl
@[simp] theorem Regs.setId_busAddr (r : Regs) (v : Byte) : (r.setId v).busAddr = r.busAddr := rfl

/-! ### `Regs.setPowerStatus` -/

@[simp] theorem Regs.setPowerStatus_cmd (r : Regs) (v : Byte) : (r.setPowerStatus v).cmd = r.cmd := rfl
@[simp] theorem Regs.setPowerStatus_arg0 (r : Regs) (v : Byte) : (r.setPowerStatus v).arg0 = r.arg0 := rfl
@[simp] theorem Regs.setPowerStatus_arg1 (r : Regs) (v : Byte) : (r.setPowerStatus v).arg1 = r.arg1 := rfl
@[simp] theorem Regs.setPowerStatus_code (r : Regs) (v : Byte) : (r.setPowerStatus v).code = r.code := rfl
@[simp] theorem Regs.setPowerStatus_anomaly (r : Regs) (v : Byte) : (r.setPowerStatus v).anomaly = r.anomaly := rfl
@[simp] theorem Regs.setPowerStatus_bound (r : Regs) (v : Byte) : (r.setPowerStatus v).bound = r.bound := rfl
@[simp] theorem Regs.setPowerStatus_dataValid (r : Regs) (v : Byte) : (r.setPowerStatus v).dataValid = r.dataValid := rfl
@[simp] theorem Regs.setPowerStatus_result (r : Regs) (v : Byte) : (r.setPowerStatus v).result = r.result := rfl
@[simp] theorem Regs.setPowerStatus_id (r : Regs) (v : Byte) : (r.setPowerStatus v).id = r.id := rfl
@[simp] theorem Regs.setPowerStatus_powerStatus (r : Regs) (v : Byte) : (r.setPowerStatus v).powerStatus = v := rfl
@[simp] theorem Regs.setPowerStatus_ofsX (r : Regs) (v : Byte) : (r.setPowerStatus v).ofsX = r.ofsX := rfl
@[simp] theorem Regs.setPowerStatus_ofsY (r : Regs) (v : Byte) : (r.setPowerStatus v).ofsY = r.ofsY := rfl
@[simp] theorem Regs.setPowerStatus_ofsZ (r : Regs) (v : Byte) : (r.setPowerStatus v).ofsZ = r.ofsZ := rfl
@[simp] theorem Regs.setPowerStatus_raw (r : Regs) (v : Byte) : (r.setPowerStatus v).raw = r.raw := rfl
@[simp] theorem Regs.setPowerStatus_sampleX (r : Regs) (v : Byte) : (r.setPowerStatus v).sampleX = r.sampleX := rfl
@[simp] theorem Regs.setPowerStatus_sampleY (r : Regs) (v : Byte) : (r.setPowerStatus v).sampleY = r.sampleY := rfl
@[simp] theorem Regs.setPowerStatus_sampleZ (r : Regs) (v : Byte) : (r.setPowerStatus v).sampleZ = r.sampleZ := rfl
@[simp] theorem Regs.setPowerStatus_roll (r : Regs) (v : Byte) : (r.setPowerStatus v).roll = r.roll := rfl
@[simp] theorem Regs.setPowerStatus_pitch (r : Regs) (v : Byte) : (r.setPowerStatus v).pitch = r.pitch := rfl
@[simp] theorem Regs.setPowerStatus_flags (r : Regs) (v : Byte) : (r.setPowerStatus v).flags = r.flags := rfl
@[simp] theorem Regs.setPowerStatus_busAddr (r : Regs) (v : Byte) : (r.setPowerStatus v).busAddr = r.busAddr := rfl

/-! ### `Regs.setOffsets` -/

@[simp] theorem Regs.setOffsets_cmd (r : Regs) (x y z : Byte) : (r.setOffsets x y z).cmd = r.cmd := rfl
@[simp] theorem Regs.setOffsets_arg0 (r : Regs) (x y z : Byte) : (r.setOffsets x y z).arg0 = r.arg0 := rfl
@[simp] theorem Regs.setOffsets_arg1 (r : Regs) (x y z : Byte) : (r.setOffsets x y z).arg1 = r.arg1 := rfl
@[simp] theorem Regs.setOffsets_code (r : Regs) (x y z : Byte) : (r.setOffsets x y z).code = r.code := rfl
@[simp] theorem Regs.setOffsets_anomaly (r : Regs) (x y z : Byte) : (r.setOffsets x y z).anomaly = r.anomaly := rfl
@[simp] theorem Regs.setOffsets_bound (r : Regs) (x y z : Byte) : (r.setOffsets x y z).bound = r.bound := rfl
@[simp] theorem Regs.setOffsets_dataValid (r : Regs) (x y z : Byte) : (r.setOffsets x y z).dataValid = r.dataValid := rfl
@[simp] theorem Regs.setOffsets_result (r : Regs) (x y z : Byte) : (r.setOffsets x y z).result = r.result := rfl
@[simp] theorem Regs.setOffsets_id (r : Regs) (x y z : Byte) : (r.setOffsets x y z).id = r.id := rfl
@[simp] theorem Regs.setOffsets_powerStatus (r : Regs) (x y z : Byte) : (r.setOffsets x y z).powerStatus = r.powerStatus := rfl
@[simp] theorem Regs.setOffsets_ofsX (r : Regs) (x y z : Byte) : (r.setOffsets x y z).ofsX = x := rfl
@[simp] theorem Regs.setOffsets_ofsY (r : Regs) (x y z : Byte) : (r.setOffsets x y z).ofsY = y := rfl
@[simp] theorem Regs.setOffsets_ofsZ (r : Regs) (x y z : Byte) : (r.setOffsets x y z).ofsZ = z := rfl
@[simp] theorem Regs.setOffsets_raw (r : Regs) (x y z : Byte) : (r.setOffsets x y z).raw = r.raw := rfl
@[simp] theorem Regs.setOffsets_sampleX (r : Regs) (x y z : Byte) : (r.setOffsets x y z).sampleX = r.sampleX := rfl
@[simp] theorem Regs.setOffsets_sampleY (r : Regs) (x y z : Byte) : (r.setOffsets x y z).sampleY = r.sampleY := rfl
@[simp] theorem Regs.setOffsets_sampleZ (r : Regs) (x y z : Byte) : (r.setOffsets x y z).sampleZ = r.sampleZ := rfl
@[simp] theorem Regs.setOffsets_roll (r : Regs) (x y z : Byte) : (r.setOffsets x y z).roll = r.roll := rfl
@[simp] theorem Regs.setOffsets_pitch (r : Regs) (x y z : Byte) : (r.setOffsets x y z).pitch = r.pitch := rfl
@[simp] theorem Regs.setOffsets_flags (r : Regs) (x y z : Byte) : (r.setOffsets x y z).flags = r.flags := rfl
@[simp] theorem Regs.setOffsets_busAddr (r : Regs) (x y z : Byte) : (r.setOffsets x y z).busAddr = r.busAddr := rfl

/-! ### `Regs.setSample` -/

@[simp] theorem Regs.setSample_cmd (r : Regs) (b : Burst) (x y z : BitVec 16) (ro pt : F64) : (r.setSample b x y z ro pt).cmd = r.cmd := rfl
@[simp] theorem Regs.setSample_arg0 (r : Regs) (b : Burst) (x y z : BitVec 16) (ro pt : F64) : (r.setSample b x y z ro pt).arg0 = r.arg0 := rfl
@[simp] theorem Regs.setSample_arg1 (r : Regs) (b : Burst) (x y z : BitVec 16) (ro pt : F64) : (r.setSample b x y z ro pt).arg1 = r.arg1 := rfl
@[simp] theorem Regs.setSample_code (r : Regs) (b : Burst) (x y z : BitVec 16) (ro pt : F64) : (r.setSample b x y z ro pt).code = r.code := rfl
@[simp] theorem Regs.setSample_anomaly (r : Regs) (b : Burst) (x y z : BitVec 16) (ro pt : F64) : (r.setSample b x y z ro pt).anomaly = r.anomaly := rfl
@[simp] theorem Regs.setSample_bound (r : Regs) (b : Burst) (x y z : BitVec 16) (ro pt : F64) : (r.setSample b x y z ro pt).bound = r.bound := rfl
@[simp] theorem Regs.setSample_dataValid (r : Regs) (b : Burst) (x y z : BitVec 16) (ro pt : F64) : (r.setSample b x y z ro pt).dataValid = true := rfl
@[simp] theorem Regs.setSample_result (r : Regs) (b : Burst) (x y z : BitVec 16) (ro pt : F64) : (r.setSample b x y z ro pt).result = r.result := rfl
@[simp] theorem Regs.setSample_id (r : Regs) (b : Burst) (x y z : BitVec 16) (ro pt : F64) : (r.setSample b x y z ro pt).id = r.id := rfl
@[simp] theorem Regs.setSample_powerStatus (r : Regs) (b : Burst) (x y z : BitVec 16) (ro pt : F64) : (r.setSample b x y z ro pt).powerStatus = r.powerStatus := rfl
@[simp] theorem Regs.setSample_ofsX (r : Regs) (b : Burst) (x y z : BitVec 16) (ro pt : F64) : (r.setSample b x y z ro pt).ofsX = r.ofsX := rfl
@[simp] theorem Regs.setSample_ofsY (r : Regs) (b : Burst) (x y z : BitVec 16) (ro pt : F64) : (r.setSample b x y z ro pt).ofsY = r.ofsY := rfl
@[simp] theorem Regs.setSample_ofsZ (r : Regs) (b : Burst) (x y z : BitVec 16) (ro pt : F64) : (r.setSample b x y z ro pt).ofsZ = r.ofsZ := rfl
@[simp] theorem Regs.setSample_raw (r : Regs) (b : Burst) (x y z : BitVec 16) (ro pt : F64) : (r.setSample b x y z ro pt).raw = b := rfl
@[simp] theorem Regs.setSample_sampleX (r : Regs) (b : Burst) (x y z : BitVec 16) (ro pt : F64) : (r.setSample b x y z ro pt).sampleX = x := rfl
@[simp] theorem Regs.setSample_sampleY (r : Regs) (b : Burst) (x y z : BitVec 16) (ro pt : F64) : (r.setSample b x y z ro pt).sampleY = y := rfl
@[simp] theorem Regs.setSample_sampleZ (r : Regs) (b : Burst) (x y z : BitVec 16) (ro pt : F64) : (r.setSample b x y z ro pt).sampleZ = z := rfl
@[simp] theorem Regs.setSample_roll (r : Regs) (b : Burst) (x y z : BitVec 16) (ro pt : F64) : (r.setSample b x y z ro pt).roll = ro := rfl
@[simp] theorem Regs.setSample_pitch (r : Regs) (b : Burst) (x y z : BitVec 16) (ro pt : F64) : (r.setSample b x y z ro pt).pitch = pt := rfl
@[simp] theorem Regs.setSample_flags (r : Regs) (b : Burst) (x y z : BitVec 16) (ro pt : F64) : (r.setSample b x y z ro pt).flags = r.flags := rfl
@[simp] theorem Regs.setSample_busAddr (r : Regs) (b : Burst) (x y z : BitVec 16) (ro pt : F64) : (r.setSample b x y z ro pt).busAddr = r.busAddr := rfl

/-! ### `Regs.setFlags` -/

@[simp] theorem Regs.setFlags_cmd (r : Regs) (v : Byte) : (r.setFlags v).cmd = r.cmd := rfl
@[simp] theorem Regs.setFlags_arg0 (r : Regs) (v : Byte) : (r.setFlags v).arg0 = r.arg0 := rfl
@[simp] theorem Regs.setFlags_arg1 (r : Regs) (v : Byte) : (r.setFlags v).arg1 = r.arg1 := rfl
@[simp] theorem Regs.setFlags_code (r : Regs) (v : Byte) : (r.setFlags v).code = r.code := rfl
@[simp] theorem Regs.setFlags_anomaly (r : Regs) (v : Byte) : (r.setFlags v).anomaly = r.anomaly := rfl
@[simp] theorem Regs.setFlags_bound (r : Regs) (v : Byte) : (r.setFlags v).bound = r.bound := rfl
@[simp] theorem Regs.setFlags_dataValid (r : Regs) (v : Byte) : (r.setFlags v).dataValid = r.dataValid := rfl
@[simp] theorem Regs.setFlags_result (r : Regs) (v : Byte) : (r.setFlags v).result = r.result := rfl
@[simp] theorem Regs.setFlags_id (r : Regs) (v : Byte) : (r.setFlags v).id = r.id := rfl
@[simp] theorem Regs.setFlags_powerStatus (r : Regs) (v : Byte) : (r.setFlags v).powerStatus = r.powerStatus := rfl
@[simp] theorem Regs.setFlags_ofsX (r : Regs) (v : Byte) : (r.setFlags v).ofsX = r.ofsX := rfl
@[simp] theorem Regs.setFlags_ofsY (r : Regs) (v : Byte) : (r.setFlags v).ofsY = r.ofsY := rfl
@[simp] theorem Regs.setFlags_ofsZ (r : Regs) (v : Byte) : (r.setFlags v).ofsZ = r.ofsZ := rfl
@[simp] theorem Regs.setFlags_raw (r : Regs) (v : Byte) : (r.setFlags v).raw = r.raw := rfl
@[simp] theorem Regs.setFlags_sampleX (r : Regs) (v : Byte) : (r.setFlags v).sampleX = r.sampleX := rfl
@[simp] theorem Regs.setFlags_sampleY (r : Regs) (v : Byte) : (r.setFlags v).sampleY = r.sampleY := rfl
@[simp] theorem Regs.setFlags_sampleZ (r : Regs) (v : Byte) : (r.setFlags v).sampleZ = r.sampleZ := rfl
@[simp] theorem Regs.setFlags_roll (r : Regs) (v : Byte) : (r.setFlags v).roll = r.roll := rfl
@[simp] theorem Regs.setFlags_pitch (r : Regs) (v : Byte) : (r.setFlags v).pitch = r.pitch := rfl
@[simp] theorem Regs.setFlags_flags (r : Regs) (v : Byte) : (r.setFlags v).flags = v := rfl
@[simp] theorem Regs.setFlags_busAddr (r : Regs) (v : Byte) : (r.setFlags v).busAddr = r.busAddr := rfl

/-! ### `Regs.release` -/

@[simp] theorem Regs.release_cmd (r : Regs) : r.release.cmd = r.cmd := rfl
@[simp] theorem Regs.release_arg0 (r : Regs) : r.release.arg0 = r.arg0 := rfl
@[simp] theorem Regs.release_arg1 (r : Regs) : r.release.arg1 = r.arg1 := rfl
@[simp] theorem Regs.release_code (r : Regs) : r.release.code = r.code := rfl
@[simp] theorem Regs.release_anomaly (r : Regs) : r.release.anomaly = r.anomaly := rfl
@[simp] theorem Regs.release_bound (r : Regs) : r.release.bound = false := rfl
@[simp] theorem Regs.release_dataValid (r : Regs) : r.release.dataValid = r.dataValid := rfl
@[simp] theorem Regs.release_result (r : Regs) : r.release.result = r.result := rfl
@[simp] theorem Regs.release_id (r : Regs) : r.release.id = r.id := rfl
@[simp] theorem Regs.release_powerStatus (r : Regs) : r.release.powerStatus = r.powerStatus := rfl
@[simp] theorem Regs.release_ofsX (r : Regs) : r.release.ofsX = r.ofsX := rfl
@[simp] theorem Regs.release_ofsY (r : Regs) : r.release.ofsY = r.ofsY := rfl
@[simp] theorem Regs.release_ofsZ (r : Regs) : r.release.ofsZ = r.ofsZ := rfl
@[simp] theorem Regs.release_raw (r : Regs) : r.release.raw = r.raw := rfl
@[simp] theorem Regs.release_sampleX (r : Regs) : r.release.sampleX = r.sampleX := rfl
@[simp] theorem Regs.release_sampleY (r : Regs) : r.release.sampleY = r.sampleY := rfl
@[simp] theorem Regs.release_sampleZ (r : Regs) : r.release.sampleZ = r.sampleZ := rfl
@[simp] theorem Regs.release_roll (r : Regs) : r.release.roll = r.roll := rfl
@[simp] theorem Regs.release_pitch (r : Regs) : r.release.pitch = r.pitch := rfl
@[simp] theorem Regs.release_flags (r : Regs) : r.release.flags = r.flags := rfl
@[simp] theorem Regs.release_busAddr (r : Regs) : r.release.busAddr = r.busAddr := rfl

/-! ### `Regs.bind` -/

@[simp] theorem Regs.bind_cmd (r : Regs) (a : BitVec 7) : (r.bind a).cmd = r.cmd := rfl
@[simp] theorem Regs.bind_arg0 (r : Regs) (a : BitVec 7) : (r.bind a).arg0 = r.arg0 := rfl
@[simp] theorem Regs.bind_arg1 (r : Regs) (a : BitVec 7) : (r.bind a).arg1 = r.arg1 := rfl
@[simp] theorem Regs.bind_code (r : Regs) (a : BitVec 7) : (r.bind a).code = r.code := rfl
@[simp] theorem Regs.bind_anomaly (r : Regs) (a : BitVec 7) : (r.bind a).anomaly = r.anomaly := rfl
@[simp] theorem Regs.bind_bound (r : Regs) (a : BitVec 7) : (r.bind a).bound = true := rfl
@[simp] theorem Regs.bind_dataValid (r : Regs) (a : BitVec 7) : (r.bind a).dataValid = r.dataValid := rfl
@[simp] theorem Regs.bind_result (r : Regs) (a : BitVec 7) : (r.bind a).result = r.result := rfl
@[simp] theorem Regs.bind_id (r : Regs) (a : BitVec 7) : (r.bind a).id = r.id := rfl
@[simp] theorem Regs.bind_powerStatus (r : Regs) (a : BitVec 7) : (r.bind a).powerStatus = r.powerStatus := rfl
@[simp] theorem Regs.bind_ofsX (r : Regs) (a : BitVec 7) : (r.bind a).ofsX = r.ofsX := rfl
@[simp] theorem Regs.bind_ofsY (r : Regs) (a : BitVec 7) : (r.bind a).ofsY = r.ofsY := rfl
@[simp] theorem Regs.bind_ofsZ (r : Regs) (a : BitVec 7) : (r.bind a).ofsZ = r.ofsZ := rfl
@[simp] theorem Regs.bind_raw (r : Regs) (a : BitVec 7) : (r.bind a).raw = r.raw := rfl
@[simp] theorem Regs.bind_sampleX (r : Regs) (a : BitVec 7) : (r.bind a).sampleX = r.sampleX := rfl
@[simp] theorem Regs.bind_sampleY (r : Regs) (a : BitVec 7) : (r.bind a).sampleY = r.sampleY := rfl
@[simp] theorem Regs.bind_sampleZ (r : Regs) (a : BitVec 7) : (r.bind a).sampleZ = r.sampleZ := rfl
@[simp] theorem Regs.bind_roll (r : Regs) (a : BitVec 7) : (r.bind a).roll = r.roll := rfl
@[simp] theorem Regs.bind_pitch (r : Regs) (a : BitVec 7) : (r.bind a).pitch = r.pitch := rfl
@[simp] theorem Regs.bind_flags (r : Regs) (a : BitVec 7) : (r.bind a).flags = r.flags := rfl
@[simp] theorem Regs.bind_busAddr (r : Regs) (a : BitVec 7) : (r.bind a).busAddr = a := rfl

/-! ### `Regs.clearMirror` -/

@[simp] theorem Regs.clearMirror_cmd (r : Regs) : r.clearMirror.cmd = r.cmd := rfl
@[simp] theorem Regs.clearMirror_arg0 (r : Regs) : r.clearMirror.arg0 = r.arg0 := rfl
@[simp] theorem Regs.clearMirror_arg1 (r : Regs) : r.clearMirror.arg1 = r.arg1 := rfl
@[simp] theorem Regs.clearMirror_code (r : Regs) : r.clearMirror.code = r.code := rfl
@[simp] theorem Regs.clearMirror_anomaly (r : Regs) : r.clearMirror.anomaly = r.anomaly := rfl
@[simp] theorem Regs.clearMirror_bound (r : Regs) : r.clearMirror.bound = r.bound := rfl
@[simp] theorem Regs.clearMirror_dataValid (r : Regs) : r.clearMirror.dataValid = false := rfl
@[simp] theorem Regs.clearMirror_result (r : Regs) : r.clearMirror.result = r.result := rfl
@[simp] theorem Regs.clearMirror_id (r : Regs) : r.clearMirror.id = 0 := rfl
@[simp] theorem Regs.clearMirror_powerStatus (r : Regs) : r.clearMirror.powerStatus = 0 := rfl
@[simp] theorem Regs.clearMirror_ofsX (r : Regs) : r.clearMirror.ofsX = 0 := rfl
@[simp] theorem Regs.clearMirror_ofsY (r : Regs) : r.clearMirror.ofsY = 0 := rfl
@[simp] theorem Regs.clearMirror_ofsZ (r : Regs) : r.clearMirror.ofsZ = 0 := rfl
@[simp] theorem Regs.clearMirror_raw (r : Regs) : r.clearMirror.raw = Burst.zero := rfl
@[simp] theorem Regs.clearMirror_sampleX (r : Regs) : r.clearMirror.sampleX = 0 := rfl
@[simp] theorem Regs.clearMirror_sampleY (r : Regs) : r.clearMirror.sampleY = 0 := rfl
@[simp] theorem Regs.clearMirror_sampleZ (r : Regs) : r.clearMirror.sampleZ = 0 := rfl
@[simp] theorem Regs.clearMirror_roll (r : Regs) : r.clearMirror.roll = 0 := rfl
@[simp] theorem Regs.clearMirror_pitch (r : Regs) : r.clearMirror.pitch = 0 := rfl
@[simp] theorem Regs.clearMirror_flags (r : Regs) : r.clearMirror.flags = 0 := rfl
@[simp] theorem Regs.clearMirror_busAddr (r : Regs) : r.clearMirror.busAddr = r.busAddr := rfl

/-! ### `Regs.setOffset`, by axis -/

@[simp] theorem Regs.setOffset_cmd (r : Regs) (a : Axis) (v : Byte) : (r.setOffset a v).cmd = r.cmd := by cases a <;> rfl
@[simp] theorem Regs.setOffset_arg0 (r : Regs) (a : Axis) (v : Byte) : (r.setOffset a v).arg0 = r.arg0 := by cases a <;> rfl
@[simp] theorem Regs.setOffset_arg1 (r : Regs) (a : Axis) (v : Byte) : (r.setOffset a v).arg1 = r.arg1 := by cases a <;> rfl
@[simp] theorem Regs.setOffset_code (r : Regs) (a : Axis) (v : Byte) : (r.setOffset a v).code = r.code := by cases a <;> rfl
@[simp] theorem Regs.setOffset_anomaly (r : Regs) (a : Axis) (v : Byte) : (r.setOffset a v).anomaly = r.anomaly := by cases a <;> rfl
@[simp] theorem Regs.setOffset_bound (r : Regs) (a : Axis) (v : Byte) : (r.setOffset a v).bound = r.bound := by cases a <;> rfl
@[simp] theorem Regs.setOffset_dataValid (r : Regs) (a : Axis) (v : Byte) : (r.setOffset a v).dataValid = r.dataValid := by cases a <;> rfl
@[simp] theorem Regs.setOffset_result (r : Regs) (a : Axis) (v : Byte) : (r.setOffset a v).result = r.result := by cases a <;> rfl
@[simp] theorem Regs.setOffset_id (r : Regs) (a : Axis) (v : Byte) : (r.setOffset a v).id = r.id := by cases a <;> rfl
@[simp] theorem Regs.setOffset_powerStatus (r : Regs) (a : Axis) (v : Byte) : (r.setOffset a v).powerStatus = r.powerStatus := by cases a <;> rfl
@[simp] theorem Regs.setOffset_ofsX (r : Regs) (a : Axis) (v : Byte) : (r.setOffset a v).ofsX = if a = .x then v else r.ofsX := by cases a <;> rfl
@[simp] theorem Regs.setOffset_ofsY (r : Regs) (a : Axis) (v : Byte) : (r.setOffset a v).ofsY = if a = .y then v else r.ofsY := by cases a <;> rfl
@[simp] theorem Regs.setOffset_ofsZ (r : Regs) (a : Axis) (v : Byte) : (r.setOffset a v).ofsZ = if a = .z then v else r.ofsZ := by cases a <;> rfl
@[simp] theorem Regs.setOffset_raw (r : Regs) (a : Axis) (v : Byte) : (r.setOffset a v).raw = r.raw := by cases a <;> rfl
@[simp] theorem Regs.setOffset_sampleX (r : Regs) (a : Axis) (v : Byte) : (r.setOffset a v).sampleX = r.sampleX := by cases a <;> rfl
@[simp] theorem Regs.setOffset_sampleY (r : Regs) (a : Axis) (v : Byte) : (r.setOffset a v).sampleY = r.sampleY := by cases a <;> rfl
@[simp] theorem Regs.setOffset_sampleZ (r : Regs) (a : Axis) (v : Byte) : (r.setOffset a v).sampleZ = r.sampleZ := by cases a <;> rfl
@[simp] theorem Regs.setOffset_roll (r : Regs) (a : Axis) (v : Byte) : (r.setOffset a v).roll = r.roll := by cases a <;> rfl
@[simp] theorem Regs.setOffset_pitch (r : Regs) (a : Axis) (v : Byte) : (r.setOffset a v).pitch = r.pitch := by cases a <;> rfl
@[simp] theorem Regs.setOffset_flags (r : Regs) (a : Axis) (v : Byte) : (r.setOffset a v).flags = r.flags := by cases a <;> rfl
@[simp] theorem Regs.setOffset_busAddr (r : Regs) (a : Axis) (v : Byte) : (r.setOffset a v).busAddr = r.busAddr := by cases a <;> rfl

/-! ### `Regs.runPipeline` -/

@[simp] theorem Regs.runPipeline_cmd (r : Regs) (b : Burst) : (r.runPipeline b).cmd = r.cmd := rfl
@[simp] theorem Regs.runPipeline_arg0 (r : Regs) (b : Burst) : (r.runPipeline b).arg0 = r.arg0 := rfl
@[simp] theorem Regs.runPipeline_arg1 (r : Regs) (b : Burst) : (r.runPipeline b).arg1 = r.arg1 := rfl
@[simp] theorem Regs.runPipeline_code (r : Regs) (b : Burst) : (r.runPipeline b).code = r.code := rfl
@[simp] theorem Regs.runPipeline_anomaly (r : Regs) (b : Burst) : (r.runPipeline b).anomaly = r.anomaly := rfl
@[simp] theorem Regs.runPipeline_bound (r : Regs) (b : Burst) : (r.runPipeline b).bound = r.bound := rfl
@[simp] theorem Regs.runPipeline_dataValid (r : Regs) (b : Burst) : (r.runPipeline b).dataValid = true := rfl
@[simp] theorem Regs.runPipeline_result (r : Regs) (b : Burst) : (r.runPipeline b).result = r.result := rfl
@[simp] theorem Regs.runPipeline_id (r : Regs) (b : Burst) : (r.runPipeline b).id = r.id := rfl
@[simp] theorem Regs.runPipeline_powerStatus (r : Regs) (b : Burst) : (r.runPipeline b).powerStatus = r.powerStatus := rfl
@[simp] theorem Regs.runPipeline_ofsX (r : Regs) (b : Burst) : (r.runPipeline b).ofsX = r.ofsX := rfl
@[simp] theorem Regs.runPipeline_ofsY (r : Regs) (b : Burst) : (r.runPipeline b).ofsY = r.ofsY := rfl
@[simp] theorem Regs.runPipeline_ofsZ (r : Regs) (b : Burst) : (r.runPipeline b).ofsZ = r.ofsZ := rfl
@[simp] theorem Regs.runPipeline_raw (r : Regs) (b : Burst) : (r.runPipeline b).raw = b := rfl
@[simp] theorem Regs.runPipeline_sampleX (r : Regs) (b : Burst) : (r.runPipeline b).sampleX = (decode6 b).1 := rfl
@[simp] theorem Regs.runPipeline_sampleY (r : Regs) (b : Burst) : (r.runPipeline b).sampleY = (decode6 b).2.1 := rfl
@[simp] theorem Regs.runPipeline_sampleZ (r : Regs) (b : Burst) : (r.runPipeline b).sampleZ = (decode6 b).2.2 := rfl
@[simp] theorem Regs.runPipeline_roll (r : Regs) (b : Burst) : (r.runPipeline b).roll = (orient (decode6 b).1 (decode6 b).2.1 (decode6 b).2.2).1 := rfl
@[simp] theorem Regs.runPipeline_pitch (r : Regs) (b : Burst) : (r.runPipeline b).pitch = (orient (decode6 b).1 (decode6 b).2.1 (decode6 b).2.2).2 := rfl
@[simp] theorem Regs.runPipeline_flags (r : Regs) (b : Burst) : (r.runPipeline b).flags = r.flags := rfl
@[simp] theorem Regs.runPipeline_busAddr (r : Regs) (b : Burst) : (r.runPipeline b).busAddr = r.busAddr := rfl

/-! ### The parts of the state -/

@[simp] theorem State.update_regs (s : State) (f : Regs → Regs) : (s.update f).regs = f s.regs := rfl
@[simp] theorem State.update_bus (s : State) (f : Regs → Regs) : (s.update f).bus = s.bus := rfl
@[simp] theorem State.update_host (s : State) (f : Regs → Regs) : (s.update f).host = s.host := rfl
@[simp] theorem State.update_update (s : State) (f g : Regs → Regs) : (s.update f).update g = s.update fun r => g (f r) := rfl
@[simp] theorem State.start_regs (s : State) : s.start.regs = s.regs.setAnomaly false := rfl
@[simp] theorem State.start_bus (s : State) : s.start.bus = s.bus := rfl
@[simp] theorem State.start_host (s : State) : s.start.host = s.host := rfl
@[simp] theorem State.finishOk_regs (s : State) : s.finishOk.regs = s.regs.setCode 0 := rfl
@[simp] theorem State.finishOk_bus (s : State) : s.finishOk.bus = s.bus := rfl
@[simp] theorem State.finishOk_host (s : State) : s.finishOk.host = s.host := rfl
@[simp] theorem State.raiseBusError_regs (s : State) : s.raiseBusError.regs = s.regs.setCode 1 := rfl
@[simp] theorem State.raiseBusError_bus (s : State) : s.raiseBusError.bus = s.bus := rfl
@[simp] theorem State.raiseBusError_host (s : State) : s.raiseBusError.host = s.host := rfl
@[simp] theorem State.raiseIllegal_regs (s : State) : s.raiseIllegal.regs = (s.regs.setAnomaly false).setCode 2 := rfl
@[simp] theorem State.raiseIllegal_bus (s : State) : s.raiseIllegal.bus = s.bus := rfl
@[simp] theorem State.raiseIllegal_host (s : State) : s.raiseIllegal.host = s.host := rfl
@[simp] theorem State.applyReset_regs (s : State) : s.applyReset.regs = Regs.reset := rfl
@[simp] theorem State.applyReset_host (s : State) : s.applyReset.host = s.host := rfl
@[simp] theorem State.applyReset_history (s : State) : s.applyReset.bus.history = s.bus.history := rfl
@[simp] theorem State.applyReset_answers (s : State) : s.applyReset.bus.answers = s.bus.answers := rfl
@[simp] theorem State.applyReset_drawn (s : State) : s.applyReset.bus.drawn = s.bus.drawn := rfl
@[simp] theorem State.applyReset_inFlight (s : State) : s.applyReset.bus.inFlight = none := rfl
@[simp] theorem State.withPending_regs (s : State) (l : List HostInput) : (s.withPending l).regs = s.regs := rfl
@[simp] theorem State.withPending_bus (s : State) (l : List HostInput) : (s.withPending l).bus = s.bus := rfl
@[simp] theorem State.withPending_pending (s : State) (l : List HostInput) : (s.withPending l).host.pending = l := rfl
@[simp] theorem State.withPending_reads (s : State) (l : List HostInput) : (s.withPending l).host.reads = s.host.reads := rfl
@[simp] theorem State.answerRead_regs (s : State) (o : Byte) : (s.answerRead o).regs = s.regs := rfl
@[simp] theorem State.answerRead_bus (s : State) (o : Byte) : (s.answerRead o).bus = s.bus := rfl
@[simp] theorem State.answerRead_pending (s : State) (o : Byte) : (s.answerRead o).host.pending = s.host.pending := rfl
@[simp] theorem State.answerRead_reads (s : State) (o : Byte) :
    (s.answerRead o).host.reads = s.host.reads ++ [hostRead s.regs o] := rfl

end Sys2Proof.Machine
end

