-- ==== Sys2Proof/Laws/Ops.lean ====
section
/-! SUPPORT. One lemma for each shared operation of Sys2Proof/Machine/Ops.lean that says once what it can do: the next answer, one
transaction, the loop of CLEAR_SETTINGS, and the two shapes of a command. -/

namespace Sys2Proof.Machine

/-! ## Answers and the bus -/

/-- A determined answer is the next one. -/
theorem Bus.nextAnswer_of_answers {b : Bus} {a : Answer} {rest : List Answer} (h : b.answers = a :: rest) :
    b.nextAnswer = a := by
  simp [Bus.nextAnswer, h]

@[simp] theorem Bus.issue_answers (b : Bus) (dev : BitVec 7) (t : Transaction) :
    (b.issue dev t).answers = b.answers.tail := rfl

@[simp] theorem Bus.issue_history (b : Bus) (dev : BitVec 7) (t : Transaction) :
    (b.issue dev t).history = b.history ++ [⟨dev, t, answerReply t b.nextAnswer⟩] := rfl

/-- An Ok answer leaves nothing in flight. -/
theorem Bus.issue_inFlight_ok {b : Bus} {d : Burst} (h : b.nextAnswer = .ok d) (dev : BitVec 7) (t : Transaction) :
    (b.issue dev t).inFlight = none := by
  simp [Bus.issue, h]

/-- An Err answer leaves nothing in flight. -/
theorem Bus.issue_inFlight_err {b : Bus} (h : b.nextAnswer = .err) (dev : BitVec 7) (t : Transaction) :
    (b.issue dev t).inFlight = none := by
  simp [Bus.issue, h]

/-- A transaction without an answer stays in flight (R67). -/
theorem Bus.issue_inFlight_never {b : Bus} (h : b.nextAnswer = .never) (dev : BitVec 7) (t : Transaction) :
    (b.issue dev t).inFlight = some t := by
  simp [Bus.issue, h]

/-! ## One transaction -/

section
variable {s : State} {base : Regs} {dev : BitVec 7} {t : Transaction} {onErr : State → State} {onOk : Burst → State → State}

/-- A transaction that answers Ok hands its bytes to the rest of the command. -/
theorem State.transact_ok {d : Burst} (h : s.bus.nextAnswer = .ok d) :
    s.transact base dev t onErr onOk = onOk d { s with bus := s.bus.issue dev t } := by
  simp [State.transact, h]

/-- A transaction that answers Err ends the command as `onErr` says. -/
theorem State.transact_err (h : s.bus.nextAnswer = .err) :
    s.transact base dev t onErr onOk = onErr { s with bus := s.bus.issue dev t } := by
  simp [State.transact, h]

/-- A transaction that never answers leaves the registers as they were before the command. -/
theorem State.transact_never (h : s.bus.nextAnswer = .never) :
    s.transact base dev t onErr onOk = { s with regs := base, bus := s.bus.issue dev t } := by
  simp [State.transact, h]

/-- Everything a transaction can do: whatever holds after Ok for all bytes, after Err, and when no answer comes, holds after it. -/
theorem State.transact_induct {P : State → Prop}
    (ok : ∀ d, s.bus.nextAnswer = .ok d → P (onOk d { s with bus := s.bus.issue dev t }))
    (err : s.bus.nextAnswer = .err → P (onErr { s with bus := s.bus.issue dev t }))
    (never : s.bus.nextAnswer = .never → P { s with regs := base, bus := s.bus.issue dev t }) :
    P (s.transact base dev t onErr onOk) := by
  cases h : s.bus.nextAnswer with
  | ok d => rw [State.transact_ok h]; exact ok d h
  | err => rw [State.transact_err h]; exact err h
  | never => rw [State.transact_never h]; exact never h

end

/-- Everything a block read can do. -/
theorem State.memRead_induct {s : State} {base : Regs} {addr : Byte} {n : Nat} {onOk : Burst → State → State} {P : State → Prop}
    (ok : ∀ d, s.bus.nextAnswer = .ok d → P (onOk d { s with bus := s.bus.issue s.regs.busAddr (.memRead addr n) }))
    (err : s.bus.nextAnswer = .err →
      P (State.raiseBusError { s with bus := s.bus.issue s.regs.busAddr (.memRead addr n) }))
    (never : s.bus.nextAnswer = .never →
      P { s with regs := base, bus := s.bus.issue s.regs.busAddr (.memRead addr n) }) :
    P (s.memRead base addr n onOk) :=
  State.transact_induct ok err never

/-- Everything a register write can do. -/
theorem State.memWrite_induct {s : State} {base : Regs} {addr v : Byte} {onOk : State → State} {P : State → Prop}
    (ok : ∀ d, s.bus.nextAnswer = .ok d → P (onOk { s with bus := s.bus.issue s.regs.busAddr (.memWrite addr [v]) }))
    (err : s.bus.nextAnswer = .err →
      P (State.raiseBusError { s with bus := s.bus.issue s.regs.busAddr (.memWrite addr [v]) }))
    (never : s.bus.nextAnswer = .never →
      P { s with regs := base, bus := s.bus.issue s.regs.busAddr (.memWrite addr [v]) }) :
    P (s.memWrite base addr v onOk) :=
  State.transact_induct ok err never

/-- The loop of CLEAR_SETTINGS keeps a property of the state before its next write if every transaction does, and gives it at each
of its three ends: all writes acknowledged, an Err, no answer. -/
theorem clearSettingsFrom_induct {base : Regs} {Q P : State → Prop}
    (issue : ∀ s addr v d, Q s → s.bus.nextAnswer = .ok d →
      Q { s with bus := s.bus.issue s.regs.busAddr (.memWrite addr [v]) })
    (done : ∀ s n, Q s → P (s.update fun r => r.setResult (BitVec.ofNat 32 n)).finishOk)
    (err : ∀ s addr v n, Q s → s.bus.nextAnswer = .err →
      P (State.raiseBusError (State.update { s with bus := s.bus.issue s.regs.busAddr (.memWrite addr [v]) }
        fun r => r.setResult (BitVec.ofNat 32 n))))
    (never : ∀ s addr v, Q s → s.bus.nextAnswer = .never →
      P { s with regs := base, bus := s.bus.issue s.regs.busAddr (.memWrite addr [v]) }) :
    ∀ (ws : List (Byte × Byte)) (n : Nat) (s : State), Q s → P (clearSettingsFrom base ws n s) := by
  intro ws
  induction ws with
  | nil => intro n s h; exact done s n h
  | cons w ws ih =>
    intro n s h
    obtain ⟨addr, v⟩ := w
    exact State.transact_induct (fun d hd => ih _ _ (issue s addr v d h hd)) (fun he => err s addr v n h he)
      (fun hn => never s addr v h hn)

/-- The transactions of a list of writes. -/
def writeTransactions (ws : List (Byte × Byte)) : List Transaction := ws.map fun w => .memWrite w.1 [w.2]

/-- Everything the loop of CLEAR_SETTINGS can do, with `n` writes acknowledged before it: all its writes answer Ok; or the first `m`
do and the next answers Err; or the first `m` do and the next never answers. -/
theorem clearSettingsFrom_cases (base : Regs) : ∀ (ws : List (Byte × Byte)) (n : Nat) (s : State),
    (s.bus.allOk s.regs.busAddr (writeTransactions ws) = true ∧
      clearSettingsFrom base ws n s =
        { s with
          regs := (s.regs.setResult (BitVec.ofNat 32 (n + ws.length))).setCode 0
          bus := s.bus.issueAll s.regs.busAddr (writeTransactions ws) }) ∨
    (∃ m < ws.length, s.bus.allOk s.regs.busAddr ((writeTransactions ws).take m) = true ∧
      (s.bus.issueAll s.regs.busAddr ((writeTransactions ws).take m)).nextAnswer = .err ∧
      clearSettingsFrom base ws n s =
        { s with
          regs := (s.regs.setResult (BitVec.ofNat 32 (n + m))).setCode 1
          bus := s.bus.issueAll s.regs.busAddr ((writeTransactions ws).take (m + 1)) }) ∨
    (∃ m < ws.length, s.bus.allOk s.regs.busAddr ((writeTransactions ws).take m) = true ∧
      (s.bus.issueAll s.regs.busAddr ((writeTransactions ws).take m)).nextAnswer = .never ∧
      clearSettingsFrom base ws n s =
        { s with regs := base, bus := s.bus.issueAll s.regs.busAddr ((writeTransactions ws).take (m + 1)) }) := by
  intro ws
  induction ws with
  | nil => intro n s; exact .inl ⟨rfl, rfl⟩
  | cons w ws ih =>
    intro n s
    cases h : s.bus.nextAnswer with
    | err =>
      exact .inr (.inl ⟨0, by simp, by simp [Bus.allOk], by simpa [Bus.issueAll] using h,
        by rw [clearSettingsFrom, State.transact_err h]; simp [writeTransactions, Bus.issueAll]; rfl⟩)
    | never =>
      exact .inr (.inr ⟨0, by simp, by simp [Bus.allOk], by simpa [Bus.issueAll] using h,
        by rw [clearSettingsFrom, State.transact_never h]; simp [writeTransactions, Bus.issueAll]⟩)
    | ok d =>
      have step : clearSettingsFrom base (w :: ws) n s = clearSettingsFrom base ws (n + 1)
          { s with bus := s.bus.issue s.regs.busAddr (.memWrite w.1 [w.2]) } := by
        rw [clearSettingsFrom, State.transact_ok h]
      rw [step]
      obtain ⟨h1, h2⟩ | ⟨m, hm, h1, h2, h3⟩ | ⟨m, hm, h1, h2, h3⟩ :=
        ih (n + 1) { s with bus := s.bus.issue s.regs.busAddr (.memWrite w.1 [w.2]) }
      · refine .inl ⟨by simpa [writeTransactions, Bus.allOk, h] using h1, ?_⟩
        rw [h2]
        simp [writeTransactions, Bus.issueAll, Nat.add_assoc, Nat.add_comm 1]
      · refine .inr (.inl ⟨m + 1, by simpa using hm, by simpa [writeTransactions, Bus.allOk, h] using h1,
          by simpa [writeTransactions, Bus.issueAll] using h2, ?_⟩)
        rw [h3]
        simp [writeTransactions, Bus.issueAll, Nat.add_assoc, Nat.add_comm 1]
      · refine .inr (.inr ⟨m + 1, by simpa using hm, by simpa [writeTransactions, Bus.allOk, h] using h1,
          by simpa [writeTransactions, Bus.issueAll] using h2, ?_⟩)
        rw [h3]
        simp [writeTransactions, Bus.issueAll]

/-- What consecutive transactions that all answer Ok add to the history, one event each. -/
theorem Bus.issueAll_history (dev : BitVec 7) : ∀ (ts : List Transaction) (b : Bus),
    ∃ es : List BusEvent, (b.issueAll dev ts).history = b.history ++ es ∧ es.map (·.transaction) = ts ∧
      (b.allOk dev ts = true → ∀ e ∈ es, ∃ bytes, e.reply = .ok bytes) := by
  intro ts
  induction ts with
  | nil => intro b; exact ⟨[], by simp [Bus.issueAll], rfl, by simp⟩
  | cons t ts ih =>
    intro b
    obtain ⟨es, h1, h2, h3⟩ := ih (b.issue dev t)
    refine ⟨⟨dev, t, answerReply t b.nextAnswer⟩ :: es, by simp [Bus.issueAll, h1], by simp [h2], ?_⟩
    cases h : b.nextAnswer with
    | ok d => intro h4; simpa [answerReply] using h3 (by simpa [Bus.allOk, h] using h4)
    | err => simp [Bus.allOk, h]
    | never => simp [Bus.allOk, h]

/-- One transaction more. -/
theorem Bus.issueAll_append (dev : BitVec 7) (ts us : List Transaction) : ∀ b : Bus,
    b.issueAll dev (ts ++ us) = (b.issueAll dev ts).issueAll dev us := by
  induction ts with
  | nil => intro b; rfl
  | cons t ts ih => intro b; simp [Bus.issueAll, ih]

/-! ## The shapes of a command -/

/-- A bus command of a bound block runs its body from a cleared ANOMALY. -/
theorem busCommand_bound {s : State} (h : s.regs.bound = true) (body : State → State) :
    busCommand s body = .next (body s.start) := by
  simp [busCommand, h]

/-- A bus command of an unbound block ends in BUS_ERROR and issues nothing (R94). -/
theorem busCommand_not_bound {s : State} (h : s.regs.bound = false) (body : State → State) :
    busCommand s body = .next s.start.raiseBusError := by
  simp [busCommand, h]

/-- Everything a bus command can do. -/
theorem busCommand_induct {s t : State} {body : State → State} {P : State → Prop} (h : busCommand s body = .next t)
    (bound : s.regs.bound = true → P (body s.start)) (notBound : s.regs.bound = false → P s.start.raiseBusError) : P t := by
  cases hb : s.regs.bound with
  | true => rw [busCommand_bound hb] at h; cases h; exact bound hb
  | false => rw [busCommand_not_bound hb] at h; cases h; exact notBound hb

end Sys2Proof.Machine
end

