-- ==== Sys2Proof/Laws/PerInstr.lean ====
section
/-! SUPPORT. A statement about every command as syntax: the word of a well-formed command is a word of its row of the match and mask
table (spec/30_encoding.md R87), one lemma per constructor. -/

namespace Sys2Proof.Laws.RowOfCommand

/-- The encoder's word of a well-formed command meets the match, the mask and the constraint of the row with the command's
mnemonic (R87). -/
def Statement (i : Instr) : Prop :=
  i.wellFormed = true → ∃ r ∈ opcodeRows, r.mnemonic = i.mnemonic ∧ r.spells (encode i) = true

/-- A packed word is a word of a row, field by field. -/
theorem spells_packWord {r : OpcodeRow} {o a b mo ma mb mr : Byte} (hm : r.mask = mo ++ ma ++ mb ++ mr)
    (hp : packWord (o &&& mo) (a &&& ma) (b &&& mb) = r.pattern) (ha : a.toNat ≤ r.aMax) :
    r.spells (packWord o a b) = true := by
  have h : packWord o a b &&& r.mask = r.pattern := by rw [hm, ← hp]; exact packWord_and o a b mo ma mb mr
  simp [OpcodeRow.spells, h, ha]

/-- A byte is at most 255. -/
theorem byte_le (a : Byte) : a.toNat ≤ 255 := by have := a.isLt; omega

theorem init (d : Bool) (a : BitVec 7) : Statement (.init d a) := by
  intro _
  refine ⟨⟨"INIT", 0x01000000, 0xFF00FFFF, 255⟩, by simp [opcodeRows], rfl, ?_⟩
  exact spells_packWord (mo := 0xFF#8) (ma := 0x00#8) (mb := 0xFF#8) (mr := 0xFF#8) rfl (by simp; rfl) (byte_le _)

theorem readId : Statement .readId := by
  intro _
  refine ⟨⟨"READ_ID", 0x02000000, 0xFFFFFFFF, 255⟩, by simp [opcodeRows], rfl, ?_⟩
  exact spells_packWord (mo := 0xFF#8) (ma := 0xFF#8) (mb := 0xFF#8) (mr := 0xFF#8) rfl (by simp; rfl) (by decide)

theorem rdreg (a : Byte) : Statement (.rdreg a) := by
  intro _
  refine ⟨⟨"RDREG", 0x03000000, 0xFF00FFFF, 255⟩, by simp [opcodeRows], rfl, ?_⟩
  exact spells_packWord (mo := 0xFF#8) (ma := 0x00#8) (mb := 0xFF#8) (mr := 0xFF#8) rfl (by simp; rfl) (byte_le _)

theorem wrreg (a v : Byte) : Statement (.wrreg a v) := by
  intro _
  refine ⟨⟨"WRREG", 0x04000000, 0xFF0000FF, 255⟩, by simp [opcodeRows], rfl, ?_⟩
  exact spells_packWord (mo := 0xFF#8) (ma := 0x00#8) (mb := 0x00#8) (mr := 0xFF#8) rfl (by simp; rfl) (byte_le _)

theorem powerOn (m : Byte) : Statement (.powerOn m) := by
  intro _
  refine ⟨⟨"POWER_ON", 0x05000000, 0xFFFF00FF, 255⟩, by simp [opcodeRows], rfl, ?_⟩
  exact spells_packWord (mo := 0xFF#8) (ma := 0xFF#8) (mb := 0x00#8) (mr := 0xFF#8) rfl (by simp; rfl) (by decide)

theorem getPower : Statement .getPower := by
  intro _
  refine ⟨⟨"GET_POWER", 0x06000000, 0xFFFFFFFF, 255⟩, by simp [opcodeRows], rfl, ?_⟩
  exact spells_packWord (mo := 0xFF#8) (ma := 0xFF#8) (mb := 0xFF#8) (mr := 0xFF#8) rfl (by simp; rfl) (by decide)

theorem getOffsets : Statement .getOffsets := by
  intro _
  refine ⟨⟨"GET_OFFSETS", 0x07000000, 0xFFFFFFFF, 255⟩, by simp [opcodeRows], rfl, ?_⟩
  exact spells_packWord (mo := 0xFF#8) (ma := 0xFF#8) (mb := 0xFF#8) (mr := 0xFF#8) rfl (by simp; rfl) (by decide)

theorem setOffset (axis v : Byte) : Statement (.setOffset axis v) := by
  intro h
  refine ⟨⟨"SET_OFFSET", 0x08000000, 0xFF0000FF, 2⟩, by simp [opcodeRows], rfl, ?_⟩
  exact spells_packWord (mo := 0xFF#8) (ma := 0x00#8) (mb := 0x00#8) (mr := 0xFF#8) rfl (by simp; rfl) (of_decide_eq_true h)

theorem getFormat : Statement .getFormat := by
  intro _
  refine ⟨⟨"GET_FORMAT", 0x09000000, 0xFFFFFFFF, 255⟩, by simp [opcodeRows], rfl, ?_⟩
  exact spells_packWord (mo := 0xFF#8) (ma := 0xFF#8) (mb := 0xFF#8) (mr := 0xFF#8) rfl (by simp; rfl) (by decide)

theorem setFormat (v : Byte) : Statement (.setFormat v) := by
  intro _
  refine ⟨⟨"SET_FORMAT", 0x0A000000, 0xFFFF00FF, 255⟩, by simp [opcodeRows], rfl, ?_⟩
  exact spells_packWord (mo := 0xFF#8) (ma := 0xFF#8) (mb := 0x00#8) (mr := 0xFF#8) rfl (by simp; rfl) (by decide)

theorem acquire : Statement .acquire := by
  intro _
  refine ⟨⟨"ACQUIRE", 0x10000000, 0xFFFFFFFF, 255⟩, by simp [opcodeRows], rfl, ?_⟩
  exact spells_packWord (mo := 0xFF#8) (ma := 0xFF#8) (mb := 0xFF#8) (mr := 0xFF#8) rfl (by simp; rfl) (by decide)

theorem pipe : Statement .pipe := by
  intro _
  refine ⟨⟨"PIPE", 0x11000000, 0xFFFFFFFF, 255⟩, by simp [opcodeRows], rfl, ?_⟩
  exact spells_packWord (mo := 0xFF#8) (ma := 0xFF#8) (mb := 0xFF#8) (mr := 0xFF#8) rfl (by simp; rfl) (by decide)

theorem tenc (k : Byte) : Statement (.tenc k) := by
  intro h
  refine ⟨⟨"TENC", 0x20000000, 0xFF00FFFF, 8⟩, by simp [opcodeRows], rfl, ?_⟩
  exact spells_packWord (mo := 0xFF#8) (ma := 0x00#8) (mb := 0xFF#8) (mr := 0xFF#8) rfl (by simp; rfl) (of_decide_eq_true h)

theorem tdec (k c : Byte) : Statement (.tdec k c) := by
  intro h
  refine ⟨⟨"TDEC", 0x21000000, 0xFF0000FF, 8⟩, by simp [opcodeRows], rfl, ?_⟩
  exact spells_packWord (mo := 0xFF#8) (ma := 0x00#8) (mb := 0x00#8) (mr := 0xFF#8) rfl (by simp; rfl) (of_decide_eq_true h)

theorem setThresh (k : Byte) : Statement (.setThresh k) := by
  intro h
  refine ⟨⟨"SET_THRESH", 0x22000000, 0xFF00FFFF, 8⟩, by simp [opcodeRows], rfl, ?_⟩
  exact spells_packWord (mo := 0xFF#8) (ma := 0x00#8) (mb := 0xFF#8) (mr := 0xFF#8) rfl (by simp; rfl) (of_decide_eq_true h)

theorem getThresh (k : Byte) : Statement (.getThresh k) := by
  intro h
  refine ⟨⟨"GET_THRESH", 0x23000000, 0xFF00FFFF, 8⟩, by simp [opcodeRows], rfl, ?_⟩
  exact spells_packWord (mo := 0xFF#8) (ma := 0x00#8) (mb := 0xFF#8) (mr := 0xFF#8) rfl (by simp; rfl) (of_decide_eq_true h)

theorem clearSettings : Statement .clearSettings := by
  intro _
  refine ⟨⟨"CLEAR_SETTINGS", 0x24000000, 0xFFFFFFFF, 255⟩, by simp [opcodeRows], rfl, ?_⟩
  exact spells_packWord (mo := 0xFF#8) (ma := 0xFF#8) (mb := 0xFF#8) (mr := 0xFF#8) rfl (by simp; rfl) (by decide)

theorem pollInt : Statement .pollInt := by
  intro _
  refine ⟨⟨"POLL_INT", 0x30000000, 0xFFFFFFFF, 255⟩, by simp [opcodeRows], rfl, ?_⟩
  exact spells_packWord (mo := 0xFF#8) (ma := 0xFF#8) (mb := 0xFF#8) (mr := 0xFF#8) rfl (by simp; rfl) (by decide)

theorem decodeInt (b : Byte) : Statement (.decodeInt b) := by
  intro _
  refine ⟨⟨"DECODE_INT", 0x31000000, 0xFFFF00FF, 255⟩, by simp [opcodeRows], rfl, ?_⟩
  exact spells_packWord (mo := 0xFF#8) (ma := 0xFF#8) (mb := 0x00#8) (mr := 0xFF#8) rfl (by simp; rfl) (by decide)

end Sys2Proof.Laws.RowOfCommand
end

