-- ==== Sys2Proof/Laws/Window.lean ====
section
/-! SUPPORT. The lemmas of the host window and of one step: which register an offset names, what a read of a reserved offset gives,
and that a step is the acceptance of the next input. -/

namespace Sys2Proof.Machine

/-- The offset of a register names that register. -/
@[simp] theorem hostRegAt_offset (reg : HostReg) : hostRegAt (hostRegOffset reg) = some reg := by
  cases reg <;> rfl

/-- An offset that names a register is that register's. -/
theorem offset_of_hostRegAt {offset : Byte} {reg : HostReg} (h : hostRegAt offset = some reg) : offset = hostRegOffset reg := by
  revert h
  unfold hostRegAt
  split <;> intro h <;> cases h <;> rfl

/-- Every register offset is an aligned one, at most 0x44. -/
theorem hostRegOffset_aligned (reg : HostReg) : (hostRegOffset reg).toNat % 4 = 0 ∧ (hostRegOffset reg).toNat ≤ 0x44 := by
  cases reg <;> decide

/-- No register stands from 0x48 on (R57). -/
theorem hostRegAt_reserved {offset : Byte} (h : 0x48 ≤ offset.toNat) : hostRegAt offset = none := by
  cases hr : hostRegAt offset with
  | none => rfl
  | some reg =>
    have := hostRegOffset_aligned reg
    rw [offset_of_hostRegAt hr] at h
    omega

/-- A host read of a register shows that register's word. -/
@[simp] theorem hostRead_offset (r : Regs) (reg : HostReg) : hostRead r (hostRegOffset reg) = hostRegWord r reg := by
  simp [hostRead]

/-- A reserved offset reads as zero (R57). -/
theorem hostRead_reserved {offset : Byte} (h : 0x48 ≤ offset.toNat) (r : Regs) : hostRead r offset = 0 := by
  simp [hostRead, hostRegAt_reserved h]

/-- An aligned 32-bit access is accepted, and nothing else is (R56). -/
theorem hostAccessOk_iff (width : HostWidth) (offset : Byte) :
    hostAccessOk width offset = true ↔ width = .word ∧ offset.toNat % 4 = 0 := by
  simp [hostAccessOk]

/-- A step of a block that does not wait for the transport takes the next input. -/
theorem step_of_pending {s : State} {i : HostInput} {rest : List HostInput} (h : s.bus.inFlight = none)
    (hp : s.host.pending = i :: rest) : step s = acceptInput i (s.withPending rest) := by
  simp [step, takeStep, takeInput, h, hp]

/-- A step of a block that waits for the transport. -/
theorem step_of_waiting {s : State} {t : Transaction} (h : s.bus.inFlight = some t) : step s = waitForTransport s := by
  simp [step, takeStep, h]

/-- A decoded word runs its command (R93). -/
theorem runWord_of_decode {w : Word} {i : Instr} (h : decode w = .ok i) (s : State) : runWord w s = exec i s := by
  simp [runWord, h]

end Sys2Proof.Machine
end

