-- ==== Sys2Proof/Tests/Slice0.lean ====
section
/-! SUPPORT. The model's own tests. Every expected value is from spec/ (spec/95_test_vectors.md unless another file is named), and the
witnesses show that each statement's hypotheses can be met together. -/

namespace Sys2Proof.Tests

open Sys2Proof.Machine

/-! ## Helpers -/

/-- An Ok answer whose first byte is `b`. -/
def okByte (b : Byte) : Answer := .ok ⟨b, 0, 0, 0, 0, 0⟩

/-- An Ok answer to an open or a write. -/
def ack : Answer := okByte 0

/-- Reset with the device at 0x53 bound and these answers to come. -/
def boundWith (answers : List Answer) : State :=
  { State.reset with
    regs := { Regs.reset with bound := true, busAddr := 0x53 }
    bus := { answers := answers, drawn := 0, history := [], inFlight := none } }

/-- Reset, not bound, with these answers to come. -/
def unboundWith (answers : List Answer) : State := { State.reset with bus := { State.reset.bus with answers := answers } }

/-- A state with these host inputs to come. -/
def hosting (s : State) (pending : List HostInput) : State := { s with host := { pending := pending, reads := [] } }

/-- The outcome is a next state that passes a check. -/
def nextIs (o : Outcome) (check : State → Bool) : Bool :=
  match o with
  | .next t => check t
  | .fault _ => false
  | .refused _ => false

/-- The state of a next outcome, or the given one. -/
def nextOr (o : Outcome) (s : State) : State :=
  match o with
  | .next t => t
  | .fault _ => s
  | .refused _ => s

/-! ## Well-formedness: every check refuses an ill-formed term -/

theorem test_ill_formed_terms :
    (Instr.setOffset 3 0).wellFormed = false ∧ (Instr.tenc 9).wellFormed = false ∧ (Instr.tdec 9 0).wellFormed = false ∧
    (Instr.setThresh 255).wellFormed = false ∧ (Instr.getThresh 9).wellFormed = false := by decide

theorem test_well_formed_terms :
    (Instr.setOffset 2 0xFF).wellFormed = true ∧ (Instr.tenc 8).wellFormed = true ∧ (Instr.tdec 8 0xFF).wellFormed = true ∧
    (Instr.setThresh 0).wellFormed = true ∧ (Instr.getThresh 8).wellFormed = true := by decide

/-! ## Decoding: every constructor from a word written out from R81, R86 and section 2.6 -/

theorem test_decode_power_family :
    decode 0x01530000 = .ok (.init false 0x53) ∧ decode 0x01800000 = .ok (.init true 0) ∧
    decode 0x01D30000 = .ok (.init true 0x53) ∧ decode 0x02000000 = .ok .readId ∧ decode 0x05000800 = .ok (.powerOn 0x08) ∧
    decode 0x06000000 = .ok .getPower := by decide

theorem test_decode_register_family :
    decode 0x03FF0000 = .ok (.rdreg 255) ∧ decode 0x042D0800 = .ok (.wrreg 45 0x08) ∧ decode 0x07000000 = .ok .getOffsets ∧
    decode 0x0801FE00 = .ok (.setOffset 1 0xFE) ∧ decode 0x09000000 = .ok .getFormat ∧
    decode 0x0A000800 = .ok (.setFormat 0x08) := by decide

theorem test_decode_sample_family :
    decode 0x10000000 = .ok .acquire ∧ decode 0x11000000 = .ok .pipe := by decide

theorem test_decode_codec_family :
    decode 0x20080000 = .ok (.tenc 8) ∧ decode 0x21070300 = .ok (.tdec 7 3) ∧ decode 0x22010000 = .ok (.setThresh 1) ∧
    decode 0x23070000 = .ok (.getThresh 7) ∧ decode 0x24000000 = .ok .clearSettings := by decide

theorem test_decode_interrupt_family :
    decode 0x30000000 = .ok .pollInt ∧ decode 0x31006000 = .ok (.decodeInt 0x60) := by decide

theorem test_decode_illegal :
    decode 0x01530001 = .error .reservedNonzero ∧ decode 0x02010000 = .error .fieldANonzero ∧
    decode 0x03000100 = .error .fieldBNonzero ∧ decode 0x05010800 = .error .fieldANonzero ∧
    decode 0x08030100 = .error .axisOutOfRange ∧ decode 0x0B000000 = .error .unknownOpcode ∧
    decode 0x20090000 = .error .kindOutOfRange ∧ decode 0x20000100 = .error .fieldBNonzero ∧
    decode 0x23FF0000 = .error .kindOutOfRange ∧ decode 0x31010000 = .error .fieldANonzero ∧
    decode 0x00000000 = .error .unknownOpcode ∧ (decode 0xFFFFFFFF).toOption = none := by decide

/-- The table's numbering: 32 bits, bit 0 the least significant. -/
theorem test_decode_table_word :
    decodeTableWord 32 0x042D0800 = some (.wrreg 45 0x08) ∧ decodeTableWord 32 0x0B000000 = none := by decide

/-- A placed word is the first command after reset (TDEC TIME_FF, 3: RESULT 0x3C75C28F). -/
theorem test_placed_word_runs :
    nextIs (step (State.reset.withFetchWord 32 0x21070300)) (fun t => t.regs.result == 0x3C75C28F && t.regs.cmd == 0x21070300) =
      true := by decide +kernel

/-! ## Section 2.1: PAIR16 and DECODE6 -/

theorem test_pair16 :
    (([(0x00, 0x00, 0), (0x01, 0x00, 1), (0x00, 0x01, 256), (0x80, 0x00, 128), (0xFF, 0xFF, -1), (0x7F, 0xFF, -129),
      (0x00, 0x80, -32768), (0xFF, 0x7F, 32767), (0x00, 0x04, 1024), (0x00, 0xFC, -1024), (0x34, 0x12, 4660)] :
        List (Byte × Byte × Int)).all fun (lo, hi, v) => (pair16 lo hi).toInt == v) = true := by decide

theorem test_decode6 :
    decode6 ⟨0x00, 0x80, 0xFF, 0x7F, 0x00, 0x04⟩ = (0x8000#16, 0x7FFF#16, 0x0400#16) ∧
    decode6 ⟨0x00, 0x00, 0x00, 0xFC, 0x00, 0x00⟩ = (0#16, 0xFC00#16, 0#16) := by decide

/-! ## Section 2.2: ORIENT with the reference ATAN2, for both values of DEG_PER_RAD -/

/-- ORIENT with the reference ATAN2. -/
def orientRef (k : F64) (x y z : Int) : F64 × F64 :=
  orientWith atan2Reference k (BitVec.ofInt 16 x) (BitVec.ofInt 16 y) (BitVec.ofInt 16 z)

theorem test_orient_axes :
    orientRef degPerRadLiteral 0 0 1024 = (0x0000000000000000#64, 0x8000000000000000#64) ∧
    orientRef degPerRadLiteral 1024 0 0 = (0x0000000000000000#64, 0xC056806C9E3EA392#64) ∧
    orientRef degPerRadExact 1024 0 0 = (0x0000000000000000#64, 0xC056800000000000#64) ∧
    orientRef degPerRadLiteral 0 (-1024) 0 = (0xC056806C9E3EA392#64, 0x8000000000000000#64) ∧
    orientRef degPerRadLiteral 0 0 (-1024) = (0x4066806C9E3EA392#64, 0x8000000000000000#64) ∧
    orientRef degPerRadExact 0 0 (-1024) = (0x4066800000000000#64, 0x8000000000000000#64) := by decide +kernel

theorem test_orient_small_angle :
    orientRef degPerRadLiteral 0 (-1) (-1024) = (0xC0667EA237E1C9F9#64, 0x8000000000000000#64) ∧
    orientRef degPerRadExact 0 1 (-1024) = (0x40667E35A247E663#64, 0x8000000000000000#64) := by decide +kernel

theorem test_orient_extremes :
    orientRef degPerRadLiteral (-32768) (-32768) (-32768) = (0xC060E05176AEFAAE#64, 0x4041A22CA3DB9AD9#64) ∧
    orientRef degPerRadExact 32767 32767 32767 = (0x4046800000000000#64, 0xC041A1D785686A60#64) := by decide +kernel

theorem test_orient_general :
    orientRef degPerRadLiteral (-32768) 32767 1024 = (0x40560DDBAB07A1A8#64, 0x40467EBF1077A246#64) ∧
    orientRef degPerRadExact 100 200 300 = (0x4040D85421F80EB2#64, 0xC02F00B2337F0FEF#64) := by decide +kernel

/-! ## Sections 2.3 and 2.4: ENCODE and DECODE -/

theorem test_encode_thresh_tap :
    (([(0x00000000, 0x00), (0x80000000, 0x00), (0x3D800000, 0x01), (0x3DF5C28F, 0x01), (0x3F800000, 0x10), (0xC0A00000, 0x00),
      (0x42C80000, 0xFF), (0x417F0000, 0xFF), (0x417F5C29, 0xFF), (0x41800000, 0xFF), (0x7F800000, 0xFF), (0xFF800000, 0x00),
      (0x7FC00000, 0x00), (0x00000001, 0x00)] : List (F32 × Byte)).all fun (v, c) => thresholdEncode v .threshTap == c) =
      true := by decide +kernel

theorem test_encode_time_kinds :
    (([(0x3A23D70A, .dur, 0x01), (0x3B449BA6, .dur, 0x04), (0x3C22339C, .dur, 0x0F), (0x3C199999, .dur, 0x0E),
      (0x3E233333, .dur, 0xFF), (0x3E23D70A, .dur, 0xFF), (0x3AA3D70A, .latent, 0x01), (0x3E99999A, .latent, 0xF0),
      (0x3EA33333, .latent, 0xFF), (0x3C23D70A, .window, 0x08), (0x3C75C28F, .timeFf, 0x03), (0x3DCCCCCD, .timeFf, 0x14),
      (0x3FA33333, .timeFf, 0xFF)] : List (F32 × Kind × Byte)).all fun (v, k, c) => thresholdEncode v k == c) =
      true := by decide +kernel

theorem test_encode_other_kinds :
    (([(0x3F000000, .threshAct, 0x08), (0x3FC00000, .threshInact, 0x18), (0x3E99999A, .threshFf, 0x04),
      (0x406CCCCD, .timeInact, 0x03), (0x437F0000, .timeInact, 0xFF), (0x437FE666, .timeInact, 0xFF),
      (0x43800000, .timeInact, 0xFF)] : List (F32 × Kind × Byte)).all fun (v, k, c) => thresholdEncode v k == c) =
      true := by decide +kernel

theorem test_decode_codes :
    (([(0, .threshTap, 0x00000000), (255, .threshTap, 0x417F0000), (8, .threshAct, 0x3F000000),
      (32, .threshInact, 0x40000000), (5, .threshFf, 0x3EA00000), (3, .dur, 0x3AF5C28F), (7, .dur, 0x3B8F5C29),
      (15, .dur, 0x3C199999), (255, .dur, 0x3E233333), (3, .latent, 0x3B75C28F), (240, .window, 0x3E999999),
      (200, .timeFf, 0x3F800000), (255, .timeInact, 0x437F0000)] : List (Byte × Kind × F32)).all
        fun (c, k, v) => thresholdDecode c k == v) = true := by decide +kernel

/-! ## Section 2.5: INTDEC -/

theorem test_intdec :
    (([(0x00, 0x00), (0x60, 0x60), (0x40, 0x40), (0x01, 0x01), (0x80, 0x00), (0xFF, 0x7F), (0x83, 0x03), (0x55, 0x55),
      (0xAA, 0x2A)] : List (Byte × Byte)).all fun (s, f) => intdec s == f) = true := by decide

theorem test_event_flags_of_0x60 :
    eventFlags (intdec 0x60) =
      { freeFall := false, dataReady := true, tap := true, doubleTap := false, activity := false, inactivity := false,
        watermark := false, overrun := false } := by decide

/-! ## Sections 2.6 and 2.7: one command each -/

theorem test_init_binds :
    nextIs (step (hosting (unboundWith [ack, okByte 0xE5, okByte 0x00]) [.write .word 0x00 0x01530000]))
      (fun t => statusWord t.regs == 0x08 && t.regs.busAddr == 0x53 && t.regs.id == 0xE5 && t.regs.result == 0xE5 &&
        t.bus.history.map (·.transaction) == [.busOpen 0x53, .memRead 0 1, .memRead 45 1]) = true := by decide

theorem test_init_power_read_err_keeps_anomaly :
    nextIs (exec (.init false 0x53) (unboundWith [ack, okByte 0x00, .err]))
      (fun t => t.regs.code == 1 && t.regs.anomaly && t.regs.bound && t.regs.result == 0) = true := by decide

theorem test_readId_zero_is_anomalous :
    nextIs (exec .readId (boundWith [okByte 0x00])) (fun t => t.regs.id == 0 && t.regs.anomaly && t.regs.code == 0) =
      true := by decide

theorem test_readId_unbound :
    nextIs (step (hosting State.reset [.write .word 0x00 0x02000000]))
      (fun t => statusWord t.regs == 0x01 && t.bus.history == []) = true := by decide

theorem test_rdreg_57 :
    nextIs (exec (.rdreg 57) (boundWith [okByte 0x80])) (fun t => t.regs.result == 0x80 &&
      t.bus.history == [⟨0x53, .memRead 57 1, .ok [0x80]⟩]) = true := by decide

theorem test_rdreg_45_keeps_the_mirror :
    nextIs (exec (.rdreg 45) (boundWith [okByte 0x08])) (fun t => t.regs.result == 0x08 && t.regs.powerStatus == 0) =
      true := by decide

theorem test_wrreg_44 :
    nextIs (exec (.wrreg 44 0x0A) (boundWith [ack])) (fun t => t.regs.code == 0 && t.regs.result == 0 &&
      t.bus.history == [⟨0x53, .memWrite 44 [0x0A], .ok []⟩]) = true := by decide

theorem test_powerOn_read_back_err :
    nextIs (exec (.powerOn 0x08) (boundWith [ack, .err]))
      (fun t => t.regs.powerStatus == 0x08 && t.regs.code == 1 && t.regs.result == 0) = true := by decide

theorem test_powerOn_ok :
    nextIs (exec (.powerOn 0x08) (boundWith [ack, okByte 0x08]))
      (fun t => t.regs.powerStatus == 0x08 && t.regs.result == 0x08 && !t.regs.anomaly) = true := by decide

theorem test_getPower :
    nextIs (exec .getPower (boundWith [okByte 0x2B])) (fun t => t.regs.powerStatus == 0x2B && t.regs.result == 0x2B) =
      true := by decide

theorem test_getOffsets :
    nextIs (exec .getOffsets (boundWith [.ok ⟨0x01, 0xFE, 0x80, 0, 0, 0⟩])) (fun t => t.regs.ofsX == 0x01 &&
      t.regs.ofsY == 0xFE && t.regs.ofsZ == 0x80 && hostRead t.regs 0x1C == 0x0080FE01 && t.regs.result == 0x0080FE01) =
      true := by decide

theorem test_setOffset_z :
    nextIs (exec (.setOffset 2 0x7F) (boundWith [ack])) (fun t => t.regs.ofsZ == 0x7F && t.regs.ofsX == 0 &&
      t.bus.history.map (·.transaction) == [.memWrite 32 [0x7F]]) = true := by decide

theorem test_setOffset_err :
    nextIs (exec (.setOffset 0 0x10) (boundWith [.err])) (fun t => t.regs.ofsX == 0 && t.regs.code == 1) = true := by decide

theorem test_getFormat :
    nextIs (exec .getFormat (boundWith [okByte 0x0B])) (fun t => t.regs.result == 0x0B) = true := by decide

theorem test_setFormat :
    nextIs (exec (.setFormat 0x08) (boundWith [ack])) (fun t => t.regs.result == 0 &&
      t.bus.history.map (·.transaction) == [.memWrite 49 [0x08]]) = true := by decide

theorem test_acquire :
    nextIs (exec .acquire (boundWith [.ok ⟨0, 0, 0, 0, 0, 0x04⟩])) (fun t => hostRead t.regs 0x2C == 0x400 &&
      statusWord t.regs == 0x18 && hostRead t.regs 0x24 == 0x400) = true := by decide

theorem test_acquire_err_keeps_the_sample :
    nextIs (exec .acquire { boundWith [.err] with regs := { Regs.reset with bound := true, sampleZ := 0x400, dataValid := true } })
      (fun t => statusWord t.regs == 0x19 && t.regs.sampleZ == 0x400) = true := by decide

theorem test_pipe :
    nextIs (exec .pipe { State.reset with regs := { Regs.reset with arg0 := 0x7FFF8000, arg1 := 0xABCD0400 } })
      (fun t => t.regs.sampleX == 0x8000 && t.regs.sampleY == 0x7FFF && t.regs.sampleZ == 0x0400 && t.regs.dataValid) =
      true := by decide

theorem test_tenc :
    nextIs (exec (.tenc 1) { State.reset with regs := { Regs.reset with arg0 := 0x3C199999 } }) (fun t => t.regs.result == 0x0E) =
      true := by decide +kernel

theorem test_tdec :
    nextIs (exec (.tdec 1 15) State.reset) (fun t => t.regs.result == 0x3C199999) = true := by decide +kernel

theorem test_setThresh :
    nextIs (exec (.setThresh 0) { boundWith [ack] with
        regs := { Regs.reset with bound := true, busAddr := 0x53, arg0 := 0x3F800000 } })
      (fun t => t.regs.result == 0x10 && t.bus.history == [⟨0x53, .memWrite 29 [0x10], .ok []⟩]) = true := by decide +kernel

theorem test_getThresh :
    nextIs (exec (.getThresh 7) (boundWith [okByte 0x03])) (fun t => t.regs.result == 0x3C75C28F) = true := by decide +kernel

theorem test_clearSettings_all :
    nextIs (exec .clearSettings (boundWith [ack, ack, ack, ack, ack, ack, ack, ack, ack, ack])) (fun t => t.regs.result == 10 &&
      t.regs.code == 0 && t.bus.history.length == 10 &&
      t.bus.history.getLast? == some ⟨0x53, .memWrite 49 [0x08], .ok []⟩) = true := by decide +kernel

theorem test_clearSettings_stops :
    nextIs (exec .clearSettings (boundWith [ack, ack, ack, .err])) (fun t => t.regs.result == 3 && t.regs.code == 1 &&
      t.bus.history.length == 4) = true := by decide +kernel

theorem test_pollInt_bit7 :
    nextIs (exec .pollInt (boundWith [okByte 0x83])) (fun t => t.regs.flags == 0x03 && t.regs.result == 0x83) = true := by decide

theorem test_decodeInt :
    nextIs (exec (.decodeInt 0xAA) State.reset) (fun t => t.regs.flags == 0x2A && t.regs.result == 0x2A) = true := by decide

/-! ## Section 2.8: the host window -/

theorem test_window_after_reset :
    ((List.range 64).all fun n => hostRead Regs.reset (BitVec.ofNat 8 (4 * n)) == 0) = true := by decide

theorem test_status_write_ignored :
    step (hosting State.reset [.write .word 0x0C 0xFFFFFFFF]) = .next State.reset := rfl

theorem test_illegal_word :
    nextIs (step (hosting State.reset [.write .word 0x00 0x0B000000]))
      (fun t => hostRead t.regs 0x00 == 0x0B000000 && hostRead t.regs 0x0C == 0x02) = true := by decide

theorem test_refused_accesses :
    step (hosting State.reset [.read .half 0x0C]) = .refused .hostAccessNotAlignedWord ∧
    step (hosting State.reset [.read .word 0x0E]) = .refused .hostAccessNotAlignedWord := ⟨rfl, rfl⟩

/-- R58: byte 0 of a word of the window is its bits [7:0]. -/
theorem test_window_bytes :
    windowByte { Regs.reset with arg0 := 0xDEADBEEF } 0x04 = 0xEF ∧
    windowByte { Regs.reset with arg0 := 0xDEADBEEF } 0x07 = 0xDE := by decide

/-- R67: a read that never answers leaves the block stuck. -/
theorem test_stuck :
    step (hosting (nextOr (exec .getPower (boundWith [.never])) State.reset) []) = .fault .transactionUnanswered := rfl

/-! ## R41: the named device registers -/

/-- The table of R41, row by row. -/
theorem test_device_registers :
    [DeviceRegister.devid, .threshold .threshTap, .ofsx, .ofsy, .ofsz, .bwRate, .powerCtl, .intEnable, .intSource, .dataFormat,
      .datax0, .datax1, .datay0, .datay1, .dataz0, .dataz1, .fifoStatus].map DeviceRegister.address =
      [0x00, 0x1D, 0x1E, 0x1F, 0x20, 0x2C, 0x2D, 0x2E, 0x30, 0x31, 0x32, 0x33, 0x34, 0x35, 0x36, 0x37, 0x39] := by decide

/-! ## R139: a direction is its reduced ratio -/

theorem test_direction_of_multiples :
    atan2Direction 3 0 4 0 = (3, 4) ∧ atan2Direction 3 5 2 6 = (3, 4) ∧ atan2Direction 9 0 12 0 = (3, 4) := by decide +kernel

/-- A NaN has no special value at x = +0 (R136 P1): the free value stands. -/
theorem test_atan2_nan_is_free :
    atan2With 1 (fun _ _ _ => 0) (fun _ _ => 0x1234#64) 0x7FF8000000000000 0 = 0x1234#64 := by decide +kernel

/-! ## R96 and R97: the assembler -/

theorem test_assemble_setth :
    assembleLine (.setth (.name .dur) ⟨false, 3, 1000⟩) =
      some [.write .word 0x04 0x3B449BA6, .write .word 0x00 0x22010000] := by decide +kernel

theorem test_assemble_pipes :
    assembleLine (.pipes (-32768) 32767 1024) =
      some [.write .word 0x04 0x7FFF8000, .write .word 0x08 0x00000400, .write .word 0x00 0x11000000] := by decide

theorem test_assemble_commands :
    assemble [.init .default, .setOffset (.name .y) 0xFE, .wrpower 0x08, .hread .status] =
      some [.write .word 0x00 0x01800000, .write .word 0x00 0x0801FE00, .write .word 0x00 0x05000800, .read .word 0x0C] := by
  decide

theorem test_assembly_errors :
    assembleLine (.tenc (.number 9)) = none ∧ assembleLine (.init (.address 128)) = none ∧
    assembleLine (.pipes 32768 0 0) = none := by decide

/-! ## Witnesses: the hypotheses of each statement, met together -/

theorem witness_DecodeOfEncodeIsTheCommand : (Instr.tdec 8 0xFF).wellFormed = true ∧ (Instr.setOffset 2 0xFF).wellFormed = true := by
  decide

theorem witness_EncodeOfDecodeIsTheWord : decode 0x2108FF00 = .ok (.tdec 8 0xFF) := by decide

theorem witness_DecoderFollowsTheMatchAndMaskTable :
    (⟨"TDEC", 0x21000000, 0xFF0000FF, 8⟩ : OpcodeRow) ∈ opcodeRows ∧ (0x2108FF00 : Word) &&& 0xFF0000FF = 0x21000000 ∧
    ((0x2108FF00 : Word).extractLsb' 16 8).toNat ≤ 8 ∧ ¬((0x2109FF00 : Word).extractLsb' 16 8).toNat ≤ 8 := by decide

/-- One word for each item of R92. -/
theorem witness_IllegalWordsChangeOnlyCodeAndAnomaly :
    illegalWord 0x0B000000 = true ∧ illegalWord 0x02000001 = true ∧ illegalWord 0x02010000 = true ∧
    illegalWord 0x03000100 = true ∧ illegalWord 0x20090000 = true ∧ illegalWord 0x08030000 = true ∧
    illegalWord 0x20080000 = false ∧ illegalWord 0x0802FF00 = false := by decide

theorem witness_AssemblerLinesExpandAsListed :
    kindOrder[0]? = some .threshTap ∧ kindOrder[8]? = some .timeInact ∧ (AsmLine.enc (.number 8) ⟨false, 1, 2⟩).isDirective = false ∧
    assembleLine (.enc (.number 8) ⟨false, 1, 2⟩) = some [.write .word 0x04 0x3F000000, .write .word 0x00 0x20080000] := by
  decide +kernel

theorem witness_CmdWriteStoresThenExecutes_legal :
    (hosting State.reset [.write .word 0x00 0x3100FF00]).bus.inFlight = none ∧ decode 0x3100FF00 = .ok (.decodeInt 0xFF) ∧
    (hosting State.reset [.write .word 0x00 0x3100FF00]).host.pending = .write .word 0x00 0x3100FF00 :: [] := by decide

theorem witness_CmdWriteStoresThenExecutes_illegal :
    (hosting State.reset [.write .word 0x00 0xFFFFFFFF]).bus.inFlight = none ∧
    decode 0xFFFFFFFF = .error .reservedNonzero ∧
    (hosting State.reset [.write .word 0x00 0xFFFFFFFF]).host.pending = .write .word 0x00 0xFFFFFFFF :: [] := by decide

theorem witness_CmdWriteStoresThenExecutes_exec : nextIs (exec .getPower (boundWith [ack])) (fun _ => true) = true := by decide

theorem witness_DecodeOrderIsIllegalThenNotBoundThenRun :
    (hosting State.reset [.write .word 0x00 0x02000000]).bus.inFlight = none ∧
    (hosting State.reset [.write .word 0x00 0x02000000]).host.pending = .write .word 0x00 0x02000000 :: [] ∧
    illegalWord 0x02000001 = true ∧ decode 0x02000000 = .ok .readId ∧ isBusCommand .readId = true ∧
    State.reset.regs.bound = false ∧ (boundWith []).regs.bound = true ∧ isBusCommand (.decodeInt 0) = false := by decide

theorem witness_PlacedWordIsRunByTheNextStep : decode 0x10000000 = .ok .acquire := by decide

theorem witness_ReadOnlyAndReservedOffsetsIgnoreWrites :
    (hosting State.reset [.write .word 0x0C 1]).bus.inFlight = none ∧
    (hosting State.reset [.write .word 0x0C 1]).host.pending = .write .word 0x0C 1 :: [] ∧
    (0x0C : Byte).toNat % 4 = 0 ∧ 0x0C ≤ (0x0C : Byte).toNat ∧ (0xFC : Byte).toNat % 4 = 0 ∧ 0x48 ≤ (0x48 : Byte).toNat ∧
    (hosting State.reset [.read .word 0x48]).host.pending = .read .word 0x48 :: [] := by decide

theorem witness_HostWritesOfArgumentsAreStored :
    (hosting State.reset [.write .word 0x04 1]).bus.inFlight = none ∧
    (hosting State.reset [.write .word 0x04 1]).host.pending = .write .word 0x04 1 :: [] ∧
    (hosting State.reset [.write .word 0x08 1]).host.pending = .write .word 0x08 1 :: [] := by decide

theorem witness_WindowAcceptsOnlyAlignedWords :
    (hosting State.reset [.read .word 0xFC]).bus.inFlight = none ∧
    (hosting State.reset [.read .word 0xFC]).host.pending = .read .word 0xFC :: [] ∧ (0xFC : Byte).toNat % 4 = 0 ∧
    (0xFD : Byte).toNat % 4 ≠ 0 ∧ HostWidth.byte ≠ .word ∧ HostWidth.double ≠ .word ∧
    (hosting State.reset [.write .byte 0x00 1]).host.pending = .write .byte 0x00 1 :: [] := by decide

theorem witness_ResetInputAppliesTheResetState :
    (hosting (boundWith []) [.reset]).host.pending = .reset :: [] ∧
    (hosting (nextOr (exec .getPower (boundWith [.never])) State.reset) [.reset]).bus.inFlight = some (.memRead 45 1) := by decide

theorem witness_WaitingForTheTransportEndsOnlyByReset_stuck :
    (nextOr (exec .getPower (boundWith [.never])) State.reset).bus.inFlight = some (.memRead 45 1) ∧
    ∀ rest, (nextOr (exec .getPower (boundWith [.never])) State.reset).host.pending ≠ .reset :: rest :=
  ⟨rfl, fun _ => nofun⟩

theorem witness_WaitingForTheTransportEndsOnlyByReset_idle :
    State.reset.bus.inFlight = none ∧ State.reset.host.pending = [] := by decide

theorem witness_UnansweredTransactionCommitsNothing :
    (boundWith [ack, .never]).bus.inFlight = none ∧
    exec (.powerOn 8) (boundWith [ack, .never]) = .next (nextOr (exec (.powerOn 8) (boundWith [ack, .never])) State.reset) ∧
    (nextOr (exec (.powerOn 8) (boundWith [ack, .never])) State.reset).bus.inFlight ≠ none :=
  ⟨rfl, rfl, by decide⟩

/-- TransactionIsRecordedWithItsReply: determined answers of each sort, none determined, and read lengths up to six. -/
theorem witness_answers :
    (boundWith [okByte 1]).bus.answers = okByte 1 :: [] ∧ State.reset.bus.answers = [] ∧ 6 ≤ 6 ∧
    (boundWith [okByte 1]).bus.nextAnswer = .ok ⟨1, 0, 0, 0, 0, 0⟩ ∧ (boundWith [.err]).bus.nextAnswer = .err ∧
    (boundWith [.never]).bus.nextAnswer = .never := by decide

/-- The hypotheses of each statement about a bus command with one transaction
(RdregReturnsTheByteRead, WrregWritesOneByte, GetOffsetsReadsThreeBytesAtOnce, FormatRegisterIsReadAndWrittenUninterpreted,
AcquireReplacesTheSampleWholesale, SetThreshWritesTheEncodedValue, GetThreshReturnsTheDecodedValue,
PollIntAndDecodeIntReplaceTheFlags, ReadIdReturnsTheIdentifier, GetPowerMirrorsThePowerStatus): bound, with an Ok and an Err. -/
theorem witness_one_transaction_commands :
    (boundWith [okByte 0]).regs.bound = true ∧ (boundWith [okByte 0]).bus.nextAnswer = .ok ⟨0, 0, 0, 0, 0, 0⟩ ∧
    (boundWith [.ok ⟨255, 255, 255, 255, 255, 255⟩]).bus.nextAnswer = .ok ⟨255, 255, 255, 255, 255, 255⟩ ∧
    (boundWith [.err]).regs.bound = true ∧ (boundWith [.err]).bus.nextAnswer = .err := by decide

theorem witness_SetOffsetWritesItsAxisAlone :
    (0 : Byte).toNat ≤ 2 ∧ (2 : Byte).toNat ≤ 2 ∧ (boundWith [ack]).regs.bound = true ∧
    (boundWith [ack]).bus.nextAnswer = .ok ⟨0, 0, 0, 0, 0, 0⟩ ∧ (boundWith [.err]).bus.nextAnswer = .err := by decide

theorem witness_InitBindsResetsTheMirrorAndReadsIdAndPower :
    (unboundWith [.err]).bus.nextAnswer = .err ∧
    ((unboundWith [ack, .err]).bus.issue 0x53 (.busOpen 0x53)).nextAnswer = .err ∧
    (((unboundWith [ack, okByte 0xE5, .err]).bus.issue 0x53 (.busOpen 0x53)).issue 0x53 (.memRead 0 1)).nextAnswer = .err ∧
    (((unboundWith [ack, okByte 0, okByte 8]).bus.issue 0x53 (.busOpen 0x53)).issue 0x53 (.memRead 0 1)).nextAnswer =
      .ok ⟨8, 0, 0, 0, 0, 0⟩ := by decide

theorem witness_PowerOnWritesAndReadsBack :
    (boundWith [ack, .err]).regs.bound = true ∧ (boundWith [.err]).bus.nextAnswer = .err ∧
    ((boundWith [ack, .err]).bus.issue 0x53 (.memWrite 45 [8])).nextAnswer = .err ∧
    ((boundWith [ack, okByte 8]).bus.issue 0x53 (.memWrite 45 [8])).nextAnswer = .ok ⟨8, 0, 0, 0, 0, 0⟩ := by decide

theorem witness_UnboundBusCommandsEndInBusError :
    (Instr.setOffset 2 0).wellFormed = true ∧ isBusCommand (.setOffset 2 0) = true ∧ State.reset.regs.bound = false ∧
    (Instr.tenc 8).wellFormed = true ∧ isPureCommand (.tenc 8) = true := by decide

theorem witness_PureCommandsAreIdempotent :
    isPureCommand .pipe = true ∧ exec .pipe State.reset = .next (nextOr (exec .pipe State.reset) State.reset) := ⟨rfl, rfl⟩

/-- A run of INIT from reset and a run of POLL_INT: the hypothesis `exec i s = .next t` of RegistersAreWrittenOnlyByTheirCommands,
OnlyTheListedTransactionsAreIssued, FirstErrEndsTheCommand, TransactionsFollowTheTable, with a set each command is outside of. -/
theorem witness_commands_answer :
    exec (.init false 0) (unboundWith [.err]) = .next (nextOr (exec (.init false 0) (unboundWith [.err])) State.reset) ∧
    exec .pollInt (boundWith [.err]) = .next (nextOr (exec .pollInt (boundWith [.err])) State.reset) ∧
    isInit .pollInt = false ∧ writesSample .pollInt = false ∧ writesId .pollInt = false ∧ writesPowerStatus .pollInt = false ∧
    writesOffsets .pollInt = false ∧ writesFlags (.init false 0) = true ∧ writesFlags .readId = false :=
  ⟨rfl, rfl, by decide⟩

/-- TransactionsFollowTheTable and FirstErrEndsTheCommand, the clauses with a further condition. -/
theorem witness_TransactionsFollowTheTable :
    (nextOr (exec .pollInt (boundWith [ack])) State.reset).bus.history = [⟨0x53, .memRead 48 1, .ok [0]⟩] ∧
    isBusCommand .pollInt = true ∧ State.reset.regs.bound = false ∧ (boundWith [ack]).regs.bound = true ∧
    (nextOr (exec .pollInt (boundWith [.err])) State.reset).bus.history.getLast? = some ⟨0x53, .memRead 48 1, .err⟩ := by decide

theorem witness_ResultChangesOnlyOnOkOrByClearSettings :
    (nextOr (exec (.rdreg 0) (boundWith [okByte 1])) State.reset).regs.result ≠ (boundWith [okByte 1]).regs.result ∧
    (nextOr (exec .clearSettings (boundWith [ack, .err])) State.reset).regs.result ≠ (boundWith [ack, .err]).regs.result := by
  decide +kernel

theorem witness_AnomalyIsRaisedOnlyByThreeCommands :
    (nextOr (exec (.powerOn 8) (boundWith [ack, okByte 9])) State.reset).bus.inFlight = none ∧
    (nextOr (exec (.powerOn 8) (boundWith [ack, okByte 9])) State.reset).regs.anomaly = true := by decide

theorem witness_CommandsIgnoreThePreviousOutcome :
    exec .getPower (boundWith [ack]) = .next (nextOr (exec .getPower (boundWith [ack])) State.reset) ∧
    (nextOr (exec .getPower (boundWith [ack])) State.reset).bus.inFlight = none := ⟨rfl, rfl⟩

theorem witness_ArgumentsAreReadOnlyByTheirCommands :
    exec (.decodeInt 1) State.reset = .next (nextOr (exec (.decodeInt 1) State.reset) State.reset) ∧ Instr.decodeInt 1 ≠ .pipe ∧
    (∀ k, Instr.decodeInt 1 ≠ .tenc k) ∧ (∀ k, Instr.decodeInt 1 ≠ .setThresh k) ∧
    (0xFFFF0000 : Word).extractLsb' 0 16 = State.reset.regs.arg1.extractLsb' 0 16 :=
  ⟨rfl, by decide, fun _ => Instr.noConfusion, fun _ => Instr.noConfusion, by decide⟩

theorem witness_OrientFollowsItsFormula_corners :
    0 ≤ (0 : BitVec 16).toInt ∧ (0x8000 : BitVec 16).toInt < 0 ∧ (0xFFFF : BitVec 16).toInt < 0 ∧ 0 < (1 : BitVec 16).toInt ∧
    0 < (0x7FFF : BitVec 16).toInt := by decide

/-- Multiples up to the edge of the range: 2 · (−16384) = −32768 and 32767 · 1. -/
theorem witness_OrientFollowsItsFormula_multiples :
    (0 : Int) < 2 ∧ (0x8000 : BitVec 16).toInt = 2 * (0xC000 : BitVec 16).toInt ∧
    (0 : Int) < 32767 ∧ (0x7FFF : BitVec 16).toInt = 32767 * (1 : BitVec 16).toInt ∧
    (0x7FFE : BitVec 16).toInt = 2 * (0x3FFF : BitVec 16).toInt ∧ (0 : BitVec 16).toInt = 2 * (0 : BitVec 16).toInt := by decide

theorem witness_Atan2HasItsProperties_special :
    (0 : F64).msb = false ∧ f64Value 0 ≠ .nan ∧ (0xFFF0000000000000 : F64).msb = true ∧
    (0xFFF0000000000000 : F64) ≠ 0x8000000000000000#64 ∧ f64Value 0xFFF0000000000000 ≠ .nan ∧
    (1 : F64).msb = false ∧ (1 : F64) ≠ 0 ∧ f64Value 1 ≠ .nan ∧ (0x8000000000000001 : F64).msb = true ∧
    (0x8000000000000001 : F64) ≠ 0x8000000000000000#64 ∧ (0x8000000000000001 : F64) ≠ 0 ∧
    f64Value 0x8000000000000001 ≠ .nan := by decide +kernel

/-- y = 1, x = −2, and the double of both. -/
theorem witness_Atan2HasItsProperties_general :
    f64Value 0x3FF0000000000000 = .finite false 0x10000000000000 (-52) ∧
    f64Value 0xC000000000000000 = .finite true 0x10000000000000 (-51) ∧
    f64Value 0x4000000000000000 = .finite false 0x10000000000000 (-51) ∧
    f64Value 0xC010000000000000 = .finite true 0x10000000000000 (-50) ∧
    fpRat (.finite false 0x10000000000000 (-51)) * fpRat (.finite true 0x10000000000000 (-51)) =
      fpRat (.finite false 0x10000000000000 (-52)) * fpRat (.finite true 0x10000000000000 (-50)) := by
  refine ⟨by decide +kernel, by decide +kernel, by decide +kernel, by decide +kernel, ?_⟩
  norm_num [fpRat]

theorem witness_ClearSettingsCountsAcknowledgedWrites_all :
    (boundWith [ack, ack, ack, ack, ack, ack, ack, ack, ack, ack]).regs.bound = true ∧
    (boundWith [ack, ack, ack, ack, ack, ack, ack, ack, ack, ack]).bus.allOk 0x53
      ((kindOrder.map fun k => Transaction.memWrite (threshAddr k) [0]) ++ [.memWrite 49 [0x08]]) = true := by decide

theorem witness_ClearSettingsCountsAcknowledgedWrites_stops :
    (boundWith [.err]).bus.nextAnswer = .err ∧
    (boundWith [ack, ack, ack, ack, ack, ack, ack, ack, ack, .err]).bus.allOk 0x53
      (((kindOrder.map fun k => Transaction.memWrite (threshAddr k) [0]) ++ [Transaction.memWrite 49 [0x08]]).take 9) = true ∧
    ((boundWith [ack, ack, ack, ack, ack, ack, ack, ack, ack, .err]).bus.issueAll 0x53
      (((kindOrder.map fun k => Transaction.memWrite (threshAddr k) [0]) ++ [Transaction.memWrite 49 [0x08]]).take 9)).nextAnswer =
      .err := by decide

theorem witness_EncodeClampsThenTruncates_clamped :
    f32Value (f32Div 0x7FC00000 (scale32 .dur)) = .nan ∧ f32Value (f32Div 0xFF800000 (scale32 .dur)) = .inf true ∧
    f32Value (f32Div 0x7F800000 (scale32 .dur)) = .inf false := by decide +kernel

theorem witness_EncodeClampsThenTruncates_finite :
    (f32Value (f32Div 0xC0A00000 (scale32 .threshTap)) = .finite true 0xA00000 (-17) ∧
      fpRat (.finite true 0xA00000 (-17)) < 0) ∧
    (f32Value (f32Div 0x41800000 (scale32 .threshTap)) = .finite false 0x800000 (-15) ∧
      255 < fpRat (.finite false 0x800000 (-15))) ∧
    (f32Value (f32Div 0x417F0000 (scale32 .threshTap)) = .finite false 0xFF0000 (-16) ∧
      0 ≤ fpRat (.finite false 0xFF0000 (-16)) ∧ fpRat (.finite false 0xFF0000 (-16)) ≤ 255) := by
  refine ⟨⟨by decide +kernel, ?_⟩, ⟨by decide +kernel, ?_⟩, ⟨by decide +kernel, ?_, ?_⟩⟩ <;> norm_num [fpRat]

theorem witness_NegativeValuesEncodeToZero :
    (0x80000000 : F32).msb = true ∧ (0xFF800000 : F32).msb = true ∧ (0xFFC00000 : F32).msb = true := by decide

theorem witness_ValueRoundTripErrorIsBelowOneLsb :
    exactScale .threshTap = true ∧ f32Value 0x417EFFFF = .finite false 0xFEFFFF (-20) ∧
    (thresholdEncode 0x417EFFFF .threshTap).toNat < 255 := by decide +kernel

theorem witness_IntdecMapsBitsToNamedFlags : intdec 0x80 = intdec 0x00 := by decide

theorem witness_SelectorsOutOfRangeAreIllegal :
    (Instr.tenc 9).wellFormed = false ∧ (Instr.setOffset 3 0).wellFormed = false := by decide

theorem witness_IntegerConversionIsExact : (2 ^ 53 : Int).natAbs ≤ 2 ^ 53 ∧ (-(2 ^ 53) : Int).natAbs ≤ 2 ^ 53 := by decide

theorem witness_ArithmeticRoundsToNearestEven :
    0 < 1 ∧ 2 * ((roundShift 3 1 : Int) * 2 ^ 1 - (3 : Nat)).natAbs = 2 ^ 1 ∧
    f32Value 0x7F7FFFFF = .finite false 0xFFFFFF 104 ∧ f32Value 0x80000001 = .finite true 1 (-149) ∧
    f32Value 0x7FC00000 = .nan ∧ f32Value 0xFF800000 = .inf true ∧
    f64Value 0x4340000000000001 = .finite false 0x10000000000001 1 ∧ f64Value 0 = .finite false 0 (-1074) := by decide +kernel

/-- A bound block that holds the sample (1, 2, 3), with a write of CMD to come. -/
def sampled : State :=
  { boundWith [okByte 0x60] with
    regs := { Regs.reset with
      bound := true, dataValid := true, raw := ⟨1, 0, 2, 0, 3, 0⟩, sampleX := 1, sampleY := 2, sampleZ := 3,
      roll := (orient 1 2 3).1, pitch := (orient 1 2 3).2 }
    host := { pending := [.write .word 0x00 0x30000000], reads := [] } }

theorem witness_StepKeepsTheInvariant :
    sampled.Inv ∧ step sampled = .next (nextOr (step sampled) State.reset) ∧
    (nextOr (step sampled) State.reset).regs.flags = 0x60 :=
  ⟨⟨by decide, rfl, by decide, by decide, by intro t h; cases h⟩, rfl, by decide⟩

end Sys2Proof.Tests
end

section
/-! SUPPORT. An unanswered transaction (spec/20_memory.md R67) and O18: a command that is left waiting still has the registers it
started with. One lemma for each shared operation; the commands follow from their shape. -/

namespace Sys2Proof.Machine

/-- If the block waits for a transaction, its registers are `base`: no write has been committed (R14). -/
def State.WaitsOnlyWith (base : Regs) (t : State) : Prop := t.bus.inFlight ≠ none → t.regs = base

/-- A block that does not wait meets it trivially. -/
theorem State.waitsOnlyWith_of_settled {base : Regs} {t : State} (h : t.bus.inFlight = none) : t.WaitsOnlyWith base :=
  fun hne => absurd h hne

/-- A transaction waits only with the registers before the command, if what follows its Ok and its Err does. -/
theorem State.transact_waitsOnlyWith {s : State} {base : Regs} {dev : BitVec 7} {t : Transaction} {onErr : State → State}
    {onOk : Burst → State → State}
    (ok : ∀ d s', s'.bus.inFlight = none → (onOk d s').WaitsOnlyWith base)
    (err : ∀ s', s'.bus.inFlight = none → (onErr s').WaitsOnlyWith base) :
    (s.transact base dev t onErr onOk).WaitsOnlyWith base :=
  State.transact_induct (fun d h => ok d _ (Bus.issue_inFlight_ok h dev t)) (fun h => err _ (Bus.issue_inFlight_err h dev t))
    (fun _ _ => rfl)

/-- A block read waits only with the registers before the command, if what follows its Ok does. -/
theorem State.memRead_waitsOnlyWith {s : State} {base : Regs} {addr : Byte} {n : Nat} {onOk : Burst → State → State}
    (ok : ∀ d s', s'.bus.inFlight = none → (onOk d s').WaitsOnlyWith base) :
    (s.memRead base addr n onOk).WaitsOnlyWith base :=
  State.transact_waitsOnlyWith ok fun _ h => State.waitsOnlyWith_of_settled h

/-- A register write waits only with the registers before the command, if what follows its Ok does. -/
theorem State.memWrite_waitsOnlyWith {s : State} {base : Regs} {addr v : Byte} {onOk : State → State}
    (ok : ∀ s', s'.bus.inFlight = none → (onOk s').WaitsOnlyWith base) :
    (s.memWrite base addr v onOk).WaitsOnlyWith base :=
  State.transact_waitsOnlyWith (fun _ => ok) fun _ h => State.waitsOnlyWith_of_settled h

/-- The loop of CLEAR_SETTINGS waits only with the registers before the command. -/
theorem clearSettingsFrom_waitsOnlyWith {base : Regs} (ws : List (Byte × Byte)) (n : Nat) {s : State}
    (hs : s.bus.inFlight = none) : (clearSettingsFrom base ws n s).WaitsOnlyWith base :=
  clearSettingsFrom_induct (Q := fun s => s.bus.inFlight = none)
    (issue := fun _ _ _ _ _ h => Bus.issue_inFlight_ok h _ _)
    (done := fun _ _ h => State.waitsOnlyWith_of_settled h)
    (err := fun _ _ _ _ _ h => State.waitsOnlyWith_of_settled (Bus.issue_inFlight_err h _ _))
    (never := fun _ _ _ _ _ _ => rfl) ws n s hs

section
variable {s t : State} (hs : s.bus.inFlight = none)
include hs

/-- A bus command waits only with the registers before it, if its body does. -/
theorem busCommand_waitsOnlyWith {body : State → State} (h : busCommand s body = .next t)
    (hbody : ∀ s1, s1.bus.inFlight = none → (body s1).WaitsOnlyWith s.regs) : t.WaitsOnlyWith s.regs :=
  busCommand_induct h (fun _ => hbody _ hs) (fun _ => State.waitsOnlyWith_of_settled hs)

/-- A bus command that reads once and then completes. -/
theorem busCommand_memRead_waitsOnlyWith {addr : Byte} {n : Nat} {onOk : Burst → State → State}
    (h : busCommand s (fun s1 => s1.memRead s.regs addr n onOk) = .next t)
    (ok : ∀ d s', s'.bus.inFlight = none → (onOk d s').bus.inFlight = none) : t.WaitsOnlyWith s.regs :=
  busCommand_waitsOnlyWith hs h fun _ _ =>
    State.memRead_waitsOnlyWith fun d s' hs' => State.waitsOnlyWith_of_settled (ok d s' hs')

/-- A bus command that writes once and then completes; the byte written may depend on the registers. -/
theorem busCommand_memWrite_waitsOnlyWith {addr : Byte} {v : State → Byte} {onOk : State → State}
    (h : busCommand s (fun s1 => s1.memWrite s.regs addr (v s1) onOk) = .next t)
    (ok : ∀ s', s'.bus.inFlight = none → (onOk s').bus.inFlight = none) : t.WaitsOnlyWith s.regs :=
  busCommand_waitsOnlyWith hs h fun _ _ =>
    State.memWrite_waitsOnlyWith fun s' hs' => State.waitsOnlyWith_of_settled (ok s' hs')

/-- A command that touches no bus never waits. -/
theorem pureCommand_waitsOnlyWith {f : Regs → Regs} (h : pureCommand s f = .next t) : t.WaitsOnlyWith s.regs := by
  cases h
  exact State.waitsOnlyWith_of_settled hs

/-- An ILLEGAL command never waits. -/
theorem illegalCommand_waitsOnlyWith (h : illegalCommand s = .next t) : t.WaitsOnlyWith s.regs := by
  cases h
  exact State.waitsOnlyWith_of_settled hs

/-- Every command waits only with the registers before it. -/
theorem exec_waitsOnlyWith {i : Instr} (h : exec i s = .next t) : t.WaitsOnlyWith s.regs := by
  cases i with
  | init =>
    cases h
    exact State.transact_waitsOnlyWith
      (fun _ _ _ => State.memRead_waitsOnlyWith fun _ _ _ => State.memRead_waitsOnlyWith fun _ _ h3 =>
        State.waitsOnlyWith_of_settled h3)
      (fun _ h1 => State.waitsOnlyWith_of_settled h1)
  | readId | rdreg | getPower | getOffsets | getFormat | acquire | pollInt =>
    exact busCommand_memRead_waitsOnlyWith hs h fun _ _ h' => h'
  | wrreg | setFormat =>
    simp only [exec, execWrreg, execSetFormat] at h
    exact busCommand_memWrite_waitsOnlyWith hs h fun _ h' => h'
  | powerOn =>
    simp only [exec, execPowerOn] at h
    exact busCommand_waitsOnlyWith hs h fun _ _ => State.memWrite_waitsOnlyWith fun _ _ =>
      State.memRead_waitsOnlyWith fun _ _ h3 => State.waitsOnlyWith_of_settled h3
  | setOffset | setThresh =>
    simp only [exec, execSetOffset, execSetThresh] at h
    split at h
    · exact busCommand_memWrite_waitsOnlyWith hs h fun _ h' => h'
    · exact illegalCommand_waitsOnlyWith hs h
  | getThresh =>
    simp only [exec, execGetThresh] at h
    split at h
    · exact busCommand_memRead_waitsOnlyWith hs h fun _ _ h' => h'
    · exact illegalCommand_waitsOnlyWith hs h
  | clearSettings =>
    exact busCommand_waitsOnlyWith hs h fun _ h1 => clearSettingsFrom_waitsOnlyWith clearSettingsWrites 0 h1
  | pipe | decodeInt => exact pureCommand_waitsOnlyWith hs h
  | tenc | tdec =>
    simp only [exec, execTenc, execTdec] at h
    split at h
    · exact pureCommand_waitsOnlyWith hs h
    · exact illegalCommand_waitsOnlyWith hs h

end

/-- Settles O18: every command waits only with the registers it started from (`exec_waitsOnlyWith`). -/
theorem unansweredTransactionCommitsNothing : Obligations.UnansweredTransactionCommitsNothing :=
  fun _ _ _ hs h hwait => exec_waitsOnlyWith hs h hwait

end Sys2Proof.Machine
end

section
/-! SUPPORT. The operations on finite operands (spec/00_scope.md R11) and O57, O58: each operation packs an integer that represents
the exact result, and `FpFormat.pack` rounds what it represents. -/

namespace Sys2Proof.Machine

/-! ## Packing -/

section
variable {f : FpFormat} (hfrac : 1 ≤ f.fracBits) (hmax : 2 ≤ f.maxField)

/-- A pattern of a format has one bit more than its magnitude, the sign. -/
theorem FpFormat.signBit_add_lt (f : FpFormat) (neg : Bool) {mag : Nat} (h : mag < 2 ^ (f.fracBits + f.expBits)) :
    f.signBit neg + mag < 2 ^ (f.fracBits + f.expBits + 1) := by
  rw [pow_succ, FpFormat.signBit]
  split <;> omega

/-- The last line of packing gives a pattern of the format: an infinity, or a magnitude below its. -/
theorem FpFormat.infinity_or_magnitude_lt (f : FpFormat) (neg : Bool) (mag : Nat) :
    (if f.maxField * 2 ^ f.fracBits ≤ mag then f.infinity neg else f.signBit neg + mag) <
      2 ^ (f.fracBits + f.expBits + 1) := by
  split
  · exact f.signBit_add_lt neg (FpFormat.magnitude_lt le_rfl)
  · rename_i hfin
    exact f.signBit_add_lt neg (FpFormat.magnitude_lt (not_le.1 hfin).le)

/-- Packing gives a pattern of the format. -/
theorem FpFormat.pack_lt (f : FpFormat) (neg : Bool) (sig : Nat) (exp : Int) :
    f.pack neg sig exp < 2 ^ (f.fracBits + f.expBits + 1) := by
  simp only [FpFormat.pack]
  split
  · exact f.signBit_add_lt neg (mag := 0) (Nat.two_pow_pos _)
  · exact f.infinity_or_magnitude_lt neg _

include hfrac hmax

/-- The zero of either sign is the rounding of 0. -/
theorem FpFormat.signBit_rounds_zero (neg : Bool) : f.Rounds neg ((if neg then -1 else 1) * 0) (f.signBit neg) := by
  have hpos : ¬f.maxField * 2 ^ f.fracBits ≤ 0 := by
    have := Nat.mul_pos (by omega : 0 < f.maxField) (Nat.two_pow_pos f.fracBits)
    omega
  have hw : (0 : ℝ) < 2 ^ (f.minExp + (0 : Nat)) := by positivity
  have h := FpFormat.rounds_of_nearest hfrac hmax neg (q := 0) (m := 0) le_rfl (Nat.zero_le _) (.inl rfl)
    (by simpa using (half_pos hw).le) (fun _ => rfl)
  simpa [hpos] using h

/-- Packing rounds the exact result that its integer represents, zero included (`FpFormat.pack_rounds`). -/
theorem FpFormat.pack_rounds_represented (neg : Bool) {sig : Nat} (exp : Int) {u : ℝ} (h : Represents sig u)
    (hbits : u = sig ∨ f.fracBits + 2 ≤ Nat.log2 sig) :
    f.Rounds neg ((if neg then -1 else 1) * (u * 2 ^ exp)) (f.pack neg sig exp) := by
  by_cases hsig : sig = 0
  · have hu : u = 0 := by
      subst hsig
      simpa using hbits
    simpa [hsig, hu, f.pack_zero] using FpFormat.signBit_rounds_zero hfrac hmax neg
  · exact FpFormat.pack_rounds hfrac hmax neg exp hsig h hbits

/-- Packing a sticky quotient rounds the exact quotient, if the scale outruns the divisor by more than a significand. -/
theorem FpFormat.pack_quotient_rounds (neg : Bool) {k n sa sb : Nat} (exp : Int) (hb : sb ≠ 0) (hn : sb < 2 ^ n)
    (hk : n + f.fracBits + 1 ≤ k) :
    f.Rounds neg ((if neg then -1 else 1) * ((sa : ℝ) / sb * 2 ^ exp)) (f.pack neg (quotientSticky k sa sb) (exp - k - 1)) := by
  have hbits : 2 * ((sa : ℝ) * 2 ^ k / sb) = quotientSticky k sa sb ∨ f.fracBits + 2 ≤ Nat.log2 (quotientSticky k sa sb) := by
    by_cases ha : sa = 0
    · exact .inl (by simp [ha, quotientSticky])
    · have := quotientSticky_log2 (k := k) ha hb hn (by omega)
      exact .inr (by omega)
  have hval : (sa : ℝ) / sb * 2 ^ exp = 2 * ((sa : ℝ) * 2 ^ k / sb) * 2 ^ (exp - k - 1) := by
    rw [zpow_sub₀ two_ne_zero, zpow_sub₀ two_ne_zero, zpow_natCast, zpow_one]
    field_simp
  rw [hval]
  exact FpFormat.pack_rounds_represented hfrac hmax neg _ (quotientSticky_represents hb) hbits

end

/-! ## The integer steps -/

/-- `roundShift` gives a nearest integer to sig / 2^shift, and the even one of two that tie: `roundShift_nearest` for an exact
result, in integers. -/
theorem roundShift_nearest_even (sig shift : Nat) :
    2 * ((roundShift sig shift : Int) * 2 ^ shift - sig).natAbs ≤ 2 ^ shift ∧
    (0 < shift → 2 * ((roundShift sig shift : Int) * 2 ^ shift - sig).natAbs = 2 ^ shift → roundShift sig shift % 2 = 0) := by
  obtain ⟨hnear, htie⟩ := roundShift_nearest (sig := sig) (k := shift) (.inl rfl) (.inl rfl)
  have hcast : (((roundShift sig shift : Int) * 2 ^ shift - sig).natAbs : ℝ) = |(roundShift sig shift : ℝ) * 2 ^ shift - sig| := by
    rw [Nat.cast_natAbs]
    push_cast
    rfl
  rw [← hcast] at hnear htie
  refine ⟨?_, fun hpos heq => htie ?_ hpos⟩
  · have : (2 : ℝ) * ((roundShift sig shift : Int) * 2 ^ shift - sig).natAbs ≤ 2 ^ shift := by linarith
    exact_mod_cast this
  · have : (2 : ℝ) * ((roundShift sig shift : Int) * 2 ^ shift - sig).natAbs = 2 ^ shift := by exact_mod_cast heq
    linarith

/-- The bits of the root: with `r` a root from below that 2^i more overshoots, the lower `i` bits complete it to the floor. -/
theorem isqrtBits_floor (m : Nat) : ∀ (i r : Nat), r * r ≤ m → m < (r + 2 ^ i) * (r + 2 ^ i) →
    isqrtBits m i r * isqrtBits m i r ≤ m ∧ m < (isqrtBits m i r + 1) * (isqrtBits m i r + 1) := by
  intro i
  induction i with
  | zero => exact fun r hlo hhi => ⟨hlo, hhi⟩
  | succ i ih =>
    intro r hlo hhi
    rw [isqrtBits]
    split
    · rename_i hbit
      refine ih _ hbit ?_
      rwa [add_assoc, ← two_mul, ← pow_succ']
    · rename_i hbit
      exact ih _ hlo (not_le.1 hbit)

/-- `isqrt` is the floor of the square root. -/
theorem isqrt_floor (m : Nat) : isqrt m * isqrt m ≤ m ∧ m < (isqrt m + 1) * (isqrt m + 1) := by
  refine isqrtBits_floor m _ 0 (Nat.zero_le _) ?_
  calc m < 2 ^ (Nat.log2 m + 1) := Nat.lt_log2_self
    _ ≤ 2 ^ ((Nat.log2 m / 2 + 1) + (Nat.log2 m / 2 + 1)) := Nat.pow_le_pow_right two_pos (by omega)
    _ = (0 + 2 ^ (Nat.log2 m / 2 + 1)) * (0 + 2 ^ (Nat.log2 m / 2 + 1)) := by rw [zero_add, pow_add]

/-- `isqrt` is Mathlib's integer square root. -/
theorem isqrt_eq_sqrt (m : Nat) : isqrt m = Nat.sqrt m := Nat.eq_sqrt.2 (isqrt_floor m)

/-- The sticky root stands for twice the exact root. -/
theorem isqrtSticky_represents (m : Nat) : Represents (isqrtSticky m) (2 * √(m : ℝ)) := by
  obtain ⟨hlo, hhi⟩ := isqrt_floor m
  simp only [isqrtSticky]
  generalize isqrt m = r at *
  split
  · rename_i hsq
    left
    rw [← hsq]
    push_cast
    rw [Real.sqrt_mul_self (Nat.cast_nonneg r), add_zero]
  · rename_i hsq
    have h1 : (r : ℝ) < √(m : ℝ) := by
      rw [Real.lt_sqrt (Nat.cast_nonneg r), sq]
      exact_mod_cast lt_of_le_of_ne hlo hsq
    have h2 : √(m : ℝ) < r + 1 := by
      rw [Real.sqrt_lt' (by positivity), sq]
      exact_mod_cast hhi
    refine .inr ⟨by omega, ?_, ?_⟩ <;> push_cast <;> linarith

/-- The sticky root has one bit more than half the bits of its argument. -/
theorem isqrtSticky_log2 {n m : Nat} (h : 2 ^ n * 2 ^ n ≤ m) : n + 1 ≤ Nat.log2 (isqrtSticky m) := by
  have hroot : 2 ^ n ≤ isqrt m := by
    rw [isqrt_eq_sqrt]
    exact Nat.le_sqrt.2 h
  have hle : 2 ^ (n + 1) ≤ isqrtSticky m := by
    rw [isqrtSticky, pow_succ]
    omega
  rwa [Nat.le_log2 (by have := Nat.two_pow_pos (n + 1); omega)]

/-! ## The operations on finite operands -/

/-- The square root of a nonnegative value packs a sticky root: with an odd exponent the significand is doubled first. -/
theorem FpFormat.sqrt_finite (f : FpFormat) (sig : Nat) (exp : Int) :
    ∃ (sig' : Nat) (half : Int), (sig : ℝ) * 2 ^ exp = sig' * (2 ^ half) ^ 2 ∧
      f.sqrt (.finite false sig exp) =
        f.pack false (isqrtSticky (sig' <<< (2 * f.fracBits + 6))) (half - (f.fracBits + 3 : Nat) - 1) := by
  by_cases hsig : sig = 0
  · exact ⟨0, 0, by simp [hsig], by simp [FpFormat.sqrt, hsig, isqrtSticky, isqrt_eq_sqrt, f.pack_zero]⟩
  · have hsquare : ∀ half : Int, ((2 : ℝ) ^ half) ^ 2 = 2 ^ (2 * half) := by
      intro half
      rw [← zpow_natCast, ← zpow_mul]
      congr 1
      push_cast
      ring
    by_cases hodd : exp % 2 = 1
    · refine ⟨2 * sig, (exp - 1) / 2, ?_, by simp [FpFormat.sqrt, hsig, hodd]⟩
      have he : exp = 1 + 2 * ((exp - 1) / 2) := by omega
      conv_lhs => rw [he, zpow_one_add₀ two_ne_zero]
      rw [hsquare]
      push_cast
      ring
    · refine ⟨sig, exp / 2, ?_, by simp [FpFormat.sqrt, hsig, hodd]⟩
      rw [hsquare, show 2 * (exp / 2) = exp by omega]

section
variable {f : FpFormat} (hfrac : 1 ≤ f.fracBits) (hmax : 2 ≤ f.maxField)
include hfrac hmax

/-- Multiplication of finite values rounds the exact product. -/
theorem FpFormat.mul_rounds (na nb : Bool) (sa sb : Nat) (ea eb : Int) :
    f.Rounds (na != nb) ((fpRat (.finite na sa ea) : ℝ) * fpRat (.finite nb sb eb)) (f.mul (.finite na sa ea) (.finite nb sb eb)) := by
  have hval : (fpRat (.finite na sa ea) : ℝ) * fpRat (.finite nb sb eb) =
      (if (na != nb) then -1 else 1) * (((sa * sb : ℕ) : ℝ) * 2 ^ (ea + eb)) := by
    rw [fpRat_finite_cast, fpRat_finite_cast, zpow_add₀ two_ne_zero]
    push_cast
    cases na <;> cases nb <;> simp <;> ring
  rw [hval]
  exact FpFormat.pack_rounds_represented hfrac hmax _ _ (.inl rfl) (.inl rfl)

/-- Division by a nonzero finite value with a significand of the format rounds the exact quotient. -/
theorem FpFormat.div_rounds (na nb : Bool) (sa : Nat) {sb : Nat} (ea eb : Int) (hb : sb ≠ 0) (hsb : sb < 2 ^ (f.fracBits + 1)) :
    f.Rounds (na != nb) ((fpRat (.finite na sa ea) : ℝ) / fpRat (.finite nb sb eb)) (f.div (.finite na sa ea) (.finite nb sb eb)) := by
  have hval : (fpRat (.finite na sa ea) : ℝ) / fpRat (.finite nb sb eb) =
      (if (na != nb) then -1 else 1) * ((sa : ℝ) / sb * 2 ^ (ea - eb)) := by
    rw [fpRat_finite_cast, fpRat_finite_cast, zpow_sub₀ two_ne_zero, ← mul_div_mul_comm]
    cases na <;> cases nb <;> simp [neg_div, div_neg]
  rw [hval, FpFormat.div, if_neg hb]
  exact FpFormat.pack_quotient_rounds hfrac hmax _ _ hb hsb (by omega)

/-- The square root of a nonnegative finite value rounds the exact root. -/
theorem FpFormat.sqrt_rounds (sig : Nat) (exp : Int) :
    f.Rounds false √(fpRat (.finite false sig exp) : ℝ) (f.sqrt (.finite false sig exp)) := by
  obtain ⟨sig', half, hexact, hpack⟩ := f.sqrt_finite sig exp
  have hroot : ∀ p : ℝ, 0 ≤ p → √((sig' : ℝ) * p ^ 2) = √(sig' : ℝ) * p := by
    intro p hp
    rw [Real.sqrt_mul (Nat.cast_nonneg _), Real.sqrt_sq hp]
  have hscale : ((sig' <<< (2 * f.fracBits + 6) : ℕ) : ℝ) = sig' * (2 ^ (f.fracBits + 3)) ^ 2 := by
    rw [Nat.shiftLeft_eq, ← pow_mul, show (f.fracBits + 3) * 2 = 2 * f.fracBits + 6 by ring]
    push_cast
    rfl
  have hval : √(fpRat (.finite false sig exp) : ℝ) = (if false then -1 else 1) *
      (2 * √((sig' <<< (2 * f.fracBits + 6) : ℕ) : ℝ) * 2 ^ (half - (f.fracBits + 3 : Nat) - 1)) := by
    rw [fpRat_finite_cast, hscale, hroot _ (by positivity), zpow_sub₀ two_ne_zero, zpow_sub₀ two_ne_zero, zpow_natCast, zpow_one]
    simp only [Bool.false_eq_true, if_false, one_mul]
    rw [hexact, hroot _ (by positivity)]
    field_simp
  rw [hval, hpack]
  refine FpFormat.pack_rounds_represented hfrac hmax _ _ (isqrtSticky_represents _) ?_
  by_cases hsig : sig' = 0
  · exact .inl (by simp [hsig, isqrtSticky, isqrt_eq_sqrt])
  · have hlarge : 2 ^ (f.fracBits + 3) * 2 ^ (f.fracBits + 3) ≤ sig' <<< (2 * f.fracBits + 6) := by
      rw [Nat.shiftLeft_eq, ← pow_add, show f.fracBits + 3 + (f.fracBits + 3) = 2 * f.fracBits + 6 by ring]
      exact Nat.le_mul_of_pos_left _ (Nat.pos_of_ne_zero hsig)
    have := isqrtSticky_log2 hlarge
    exact .inr (by omega)

/-- A ratio is read as the rounding of its exact value. -/
theorem FpFormat.ofRatio_rounds (neg : Bool) (num : Nat) {den : Nat} (hden : 0 < den) :
    f.Rounds neg ((if neg then -1 else 1) * (num : ℝ) / den) (f.ofRatio neg num den) := by
  have h := FpFormat.pack_quotient_rounds (k := 2 * f.fracBits + 6 + Nat.log2 den) (sa := num) hfrac hmax neg 0 hden.ne'
    Nat.lt_log2_self (by omega)
  rwa [zpow_zero, mul_one, zero_sub, ← mul_div_assoc] at h

end

/-! ## binary32 and binary64 patterns -/

/-- The multiplication of finite binary32 patterns. -/
theorem f32Mul_toNat {a b : F32} {na nb : Bool} {sa sb : Nat} {ea eb : Int} (ha : f32Value a = .finite na sa ea)
    (hb : f32Value b = .finite nb sb eb) : (f32Mul a b).toNat = binary32.mul (f32Value a) (f32Value b) := by
  rw [f32Mul, BitVec.toNat_ofNat, ha, hb]
  exact Nat.mod_eq_of_lt (binary32.pack_lt _ _ _)

/-- The division of a finite binary32 pattern by a nonzero one. -/
theorem f32Div_toNat {a b : F32} {na nb : Bool} {sa sb : Nat} {ea eb : Int} (ha : f32Value a = .finite na sa ea)
    (hb : f32Value b = .finite nb sb eb) (hsb : sb ≠ 0) : (f32Div a b).toNat = binary32.div (f32Value a) (f32Value b) := by
  rw [f32Div, BitVec.toNat_ofNat, ha, hb, FpFormat.div, if_neg hsb]
  exact Nat.mod_eq_of_lt (binary32.pack_lt _ _ _)

/-- A NaN dividend stays one. -/
theorem f32Div_nan {a : F32} (ha : f32Value a = .nan) (b : F32) : f32Value (f32Div a b) = .nan := by
  rw [f32Div, ha]
  change f32Value (BitVec.ofNat 32 binary32.quietNan) = .nan
  decide

/-- An infinite dividend over a finite divisor stays infinite. -/
theorem f32Div_inf {a b : F32} {na nb : Bool} {sb : Nat} {eb : Int} (ha : f32Value a = .inf na)
    (hb : f32Value b = .finite nb sb eb) : f32Value (f32Div a b) = .inf (na != nb) := by
  rw [f32Div, ha, hb]
  change f32Value (BitVec.ofNat 32 (binary32.infinity (na != nb))) = .inf (na != nb)
  cases na <;> cases nb <;> decide

/-- The multiplication of finite binary64 patterns. -/
theorem f64Mul_toNat {a b : F64} {na nb : Bool} {sa sb : Nat} {ea eb : Int} (ha : f64Value a = .finite na sa ea)
    (hb : f64Value b = .finite nb sb eb) : (f64Mul a b).toNat = binary64.mul (f64Value a) (f64Value b) := by
  rw [f64Mul, BitVec.toNat_ofNat, ha, hb]
  exact Nat.mod_eq_of_lt (binary64.pack_lt _ _ _)

/-- The square root of a nonnegative finite binary64 pattern. -/
theorem f64Sqrt_toNat {a : F64} {sa : Nat} {ea : Int} (ha : f64Value a = .finite false sa ea) :
    (f64Sqrt a).toNat = binary64.sqrt (f64Value a) := by
  obtain ⟨sig', half, -, hpack⟩ := binary64.sqrt_finite sa ea
  rw [f64Sqrt, BitVec.toNat_ofNat, ha, hpack]
  exact Nat.mod_eq_of_lt (binary64.pack_lt _ _ _)

/-- binary32 has fraction bits, and fields for finite values. -/
theorem binary32_bounds : 1 ≤ binary32.fracBits ∧ 2 ≤ binary32.maxField := by decide

/-- binary64 has fraction bits, and fields for finite values. -/
theorem binary64_bounds : 1 ≤ binary64.fracBits ∧ 2 ≤ binary64.maxField := by decide

/-- Settles O58: the two integer steps, then each operation packs an integer that represents its exact result. -/
theorem arithmeticRoundsToNearestEven : Obligations.ArithmeticRoundsToNearestEven := by
  obtain ⟨hfrac32, hmax32⟩ := binary32_bounds
  obtain ⟨hfrac64, hmax64⟩ := binary64_bounds
  refine ⟨roundShift_nearest_even, isqrt_floor, ?_, ?_, ?_, ?_, fun neg num _ hden =>
    FpFormat.ofRatio_rounds hfrac32 hmax32 neg num hden⟩
  · intro a b na nb sa sb ea eb ha hb
    refine ⟨?_, fun hsb => ?_⟩
    · rw [f32Mul_toNat ha hb, ha, hb]
      exact FpFormat.mul_rounds hfrac32 hmax32 na nb sa sb ea eb
    · obtain ⟨hlt, -, -⟩ := binary32.unpack_range hb
      rw [f32Div_toNat ha hb hsb, ha, hb]
      exact FpFormat.div_rounds hfrac32 hmax32 na nb sa ea eb hsb hlt
  · exact fun a b nb sb eb hb => ⟨fun ha => f32Div_nan ha b, fun na ha => f32Div_inf ha hb⟩
  · intro a b na nb sa sb ea eb ha hb
    rw [f64Mul_toNat ha hb, ha, hb]
    exact FpFormat.mul_rounds hfrac64 hmax64 na nb sa sb ea eb
  · intro a sa ea ha
    rw [f64Sqrt_toNat ha, ha]
    exact FpFormat.sqrt_rounds hfrac64 hmax64 sa ea

/-! ## Exact conversions -/

/-- Packing a significand of the format, in the range of its exponents, loses nothing: it is shifted to a full significand. -/
theorem FpFormat.unpack_pack_exact {f : FpFormat} (neg : Bool) {sig : Nat} {exp : Int} (hsig : sig ≠ 0)
    (hlog : Nat.log2 sig ≤ f.fracBits) (hlow : f.minExp ≤ exp + (Nat.log2 sig : Int) - f.fracBits)
    (hhigh : exp + (Nat.log2 sig : Int) - f.fracBits - f.minExp + 2 ≤ f.maxField) :
    f.unpack (f.pack neg sig exp) =
      .finite neg (sig <<< (f.fracBits - Nat.log2 sig)) (exp + (Nat.log2 sig : Int) - f.fracBits) := by
  obtain ⟨q, hq⟩ : ∃ q : Nat, exp + (Nat.log2 sig : Int) - f.fracBits = f.minExp + q :=
    ⟨(exp + (Nat.log2 sig : Int) - f.fracBits - f.minExp).toNat, by omega⟩
  have hmlow : 2 ^ f.fracBits ≤ sig <<< (f.fracBits - Nat.log2 sig) := by
    rw [Nat.shiftLeft_eq]
    calc 2 ^ f.fracBits = 2 ^ Nat.log2 sig * 2 ^ (f.fracBits - Nat.log2 sig) := by rw [← pow_add, Nat.add_sub_cancel' hlog]
      _ ≤ _ := Nat.mul_le_mul_right _ (Nat.log2_self_le hsig)
  have hmhigh : sig <<< (f.fracBits - Nat.log2 sig) < 2 ^ (f.fracBits + 1) := by
    rw [Nat.shiftLeft_eq]
    calc sig * 2 ^ (f.fracBits - Nat.log2 sig) < 2 ^ (Nat.log2 sig + 1) * 2 ^ (f.fracBits - Nat.log2 sig) :=
          Nat.mul_lt_mul_of_pos_right Nat.lt_log2_self (Nat.two_pow_pos _)
      _ = 2 ^ (f.fracBits + 1) := by rw [← pow_add]; congr 1; omega
  have hfin : q * 2 ^ f.fracBits + sig <<< (f.fracBits - Nat.log2 sig) < f.maxField * 2 ^ f.fracBits := by
    calc q * 2 ^ f.fracBits + sig <<< (f.fracBits - Nat.log2 sig) < (q + 2) * 2 ^ f.fracBits := by
          rw [pow_succ] at hmhigh
          linarith
      _ ≤ f.maxField * 2 ^ f.fracBits := Nat.mul_le_mul_right _ (by omega)
  have hpack : f.pack neg sig exp = f.signBit neg + (q * 2 ^ f.fracBits + sig <<< (f.fracBits - Nat.log2 sig)) := by
    simp only [FpFormat.pack, if_neg hsig, max_eq_left hlow]
    rw [hq, if_pos (by omega : f.minExp + (q : Int) ≤ exp), show (f.minExp + (q : Int) - f.minExp).toNat = q by omega,
      show (exp - (f.minExp + (q : Int))).toNat = f.fracBits - Nat.log2 sig by omega, if_neg (not_le.2 hfin)]
  rw [hpack, hq]
  exact FpFormat.unpack_finite neg hmhigh (.inr hmlow) hfin

/-- The value of an integer's pattern is that of the packed magnitude. -/
theorem f64Value_f64OfInt (n : Int) : f64Value (f64OfInt n) = binary64.unpack (binary64.pack (decide (n < 0)) n.natAbs 0) := by
  rw [f64Value, f64OfInt, BitVec.toNat_ofNat]
  exact congrArg _ (Nat.mod_eq_of_lt (binary64.pack_lt _ _ _))

/-- The integers ±2^53, the only ones in the range with one bit more than a significand, are converted exactly. -/
theorem f64Value_f64OfInt_two_pow_53 (n : Int) (h : n.natAbs = 2 ^ 53) :
    f64Value (f64OfInt n) = .finite (decide (n < 0)) (2 ^ 52) 1 := by
  obtain rfl | rfl := Int.natAbs_eq_iff.1 h <;> decide

/-- A nonzero integer of at most 53 bits is converted to its magnitude shifted to a full significand. -/
theorem f64Value_f64OfInt_of_lt {n : Int} (h0 : n ≠ 0) (h : n.natAbs < 2 ^ 53) :
    f64Value (f64OfInt n) =
      .finite (decide (n < 0)) (n.natAbs <<< (52 - Nat.log2 n.natAbs)) (0 + (Nat.log2 n.natAbs : Int) - 52) := by
  have hlog : Nat.log2 n.natAbs < 53 := (Nat.log2_lt (Int.natAbs_ne_zero.2 h0)).2 h
  have hmin : binary64.minExp = -1074 := by decide
  have hmaxField : binary64.maxField = 2047 := by decide
  have hfrac : binary64.fracBits = 52 := rfl
  rw [f64Value_f64OfInt]
  exact FpFormat.unpack_pack_exact _ (Int.natAbs_ne_zero.2 h0) (by omega) (by omega) (by omega)

/-- An integer is its sign and its magnitude. -/
theorem sign_mul_natAbs (n : Int) : (if decide (n < 0) then -1 else 1) * (n.natAbs : ℚ) = n := by
  rw [Nat.cast_natAbs]
  by_cases h : n < 0
  · simp [h, abs_of_neg h]
  · simp [h, abs_of_nonneg (not_lt.1 h)]

/-- Settles O57: 0, the integers of at most 53 bits, and ±2^53. -/
theorem integerConversionIsExact : Obligations.IntegerConversionIsExact := by
  intro n hn
  by_cases h0 : n = 0
  · subst h0
    have hval : f64Value (f64OfInt 0) = .finite false 0 (-1074) := by decide
    exact ⟨0, -1074, hval, by simp [hval, fpRat]⟩
  obtain hlt | heq := hn.lt_or_eq
  · have hlog : Nat.log2 n.natAbs < 53 := (Nat.log2_lt (Int.natAbs_ne_zero.2 h0)).2 hlt
    have hval := f64Value_f64OfInt_of_lt h0 hlt
    refine ⟨_, _, hval, ?_⟩
    have hscale : (2 : ℚ) ^ (52 - Nat.log2 n.natAbs) * 2 ^ (0 + (Nat.log2 n.natAbs : Int) - 52) = 1 := by
      rw [← zpow_natCast, ← zpow_add₀ two_ne_zero, show ((52 - Nat.log2 n.natAbs : ℕ) : Int) +
        (0 + (Nat.log2 n.natAbs : Int) - 52) = 0 by omega, zpow_zero]
    rw [hval, fpRat, Nat.shiftLeft_eq]
    push_cast
    rw [mul_assoc, mul_assoc, hscale, mul_one]
    exact sign_mul_natAbs n
  · have hval := f64Value_f64OfInt_two_pow_53 n heq
    refine ⟨_, _, hval, ?_⟩
    rw [hval, fpRat, ← sign_mul_natAbs n, heq]
    norm_num [mul_assoc]

end Sys2Proof.Machine
end

section
/-! SUPPORT. What a command has done when it ends (spec/10_state.md R20, R25 to R27): its register writes with the CODE it ends with,
one constructor for each end, and that every command runs to one of its ends or waits for the transport. -/

namespace Sys2Proof.Machine

/-- A selector byte that names no kind is above 8 (R92 item 4). -/
theorem not_kind_of_none {kind : Byte} (h : kindOfByte kind = none) : ¬ kind.toNat ≤ 8 := by
  revert kind
  decide

/-- A selector byte that names no axis is above 2 (R92 item 5). -/
theorem not_axis_of_none {axis : Byte} (h : axisOfByte axis = none) : ¬ axis.toNat ≤ 2 := by
  revert axis
  decide

/-- One transaction of R61 issued to a device. -/
def Bus.Issues (b b' : Bus) : Prop := ∃ dev t, transactionAllowed t = true ∧ b' = b.issue dev t

/-- What a command has written when it ends, and with which CODE: `CommandEnds r i r' c` says that the command `i`, started with the
registers `r` (ANOMALY cleared), may end with the writes that make them `r'`, and then `x[CODE] <- c`. -/
inductive CommandEnds (r : Regs) : Instr → Regs → BitVec 2 → Prop where
  /-- R92: nothing is written. -/
  | illegal {i} : i.wellFormed = false → CommandEnds r i r 2
  /-- R94, R101: not bound, or an Err before anything is written. -/
  | busError {i} : isBusCommand i = true → CommandEnds r i r 1
  /-- R200: the handle is released first, so an Err of the open leaves the block unbound. -/
  | initOpenErr {d a} : CommandEnds r (.init d a) r.release 1
  | initIdErr {d a} : CommandEnds r (.init d a) (r.release.bind (initAddr d a)).clearMirror 1
  | initPowerErr {d a} (id : Byte) :
    CommandEnds r (.init d a) (((r.release.bind (initAddr d a)).clearMirror.setId id).noteAnomaly (id == 0)) 1
  | init {d a} (id p : Byte) :
    CommandEnds r (.init d a)
      (((((r.release.bind (initAddr d a)).clearMirror.setId id).noteAnomaly (id == 0)).setPowerStatus p).setResult id.toWord) 0
  | readId (id : Byte) : CommandEnds r .readId (((r.setId id).setResult id.toWord).noteAnomaly (id == 0)) 0
  | rdreg {addr} (v : Byte) : CommandEnds r (.rdreg addr) (r.setResult v.toWord) 0
  | wrreg {addr v} : CommandEnds r (.wrreg addr v) r 0
  /-- R204: the mirror takes the byte written, and an Err of the read-back keeps it. -/
  | powerOnErr {m} : CommandEnds r (.powerOn m) (r.setPowerStatus m) 1
  | powerOn {m} (v : Byte) :
    CommandEnds r (.powerOn m)
      ((((r.setPowerStatus m).setPowerStatus v).noteAnomaly (v != m)).setResult v.toWord) 0
  | getPower (v : Byte) : CommandEnds r .getPower ((r.setPowerStatus v).setResult v.toWord) 0
  | getOffsets (x y z : Byte) : CommandEnds r .getOffsets ((r.setOffsets x y z).setResult (0#8 ++ z ++ y ++ x)) 0
  | setOffset {axis v a} : axisOfByte axis = some a → CommandEnds r (.setOffset axis v) (r.setOffset a v) 0
  | getFormat (v : Byte) : CommandEnds r .getFormat (r.setResult v.toWord) 0
  | setFormat {v} : CommandEnds r (.setFormat v) r 0
  | acquire (d : Burst) : CommandEnds r .acquire (r.runPipeline d) 0
  | pipe : CommandEnds r .pipe (r.runPipeline (pipeBytes r.arg0 r.arg1)) 0
  | tenc {kind k} : kindOfByte kind = some k → CommandEnds r (.tenc kind) (r.setResult (thresholdEncode r.arg0 k).toWord) 0
  | tdec {kind code k} : kindOfByte kind = some k → CommandEnds r (.tdec kind code) (r.setResult (thresholdDecode code k)) 0
  | setThresh {kind k} : kindOfByte kind = some k →
    CommandEnds r (.setThresh kind) (r.setResult (thresholdEncode r.arg0 k).toWord) 0
  | getThresh {kind k} (c : Byte) : kindOfByte kind = some k →
    CommandEnds r (.getThresh kind) (r.setResult (thresholdDecode c k)) 0
  /-- R174: the count is written on an Err too. -/
  | clearSettingsErr (n : Nat) : CommandEnds r .clearSettings (r.setResult (BitVec.ofNat 32 n)) 1
  | clearSettings (n : Nat) : CommandEnds r .clearSettings (r.setResult (BitVec.ofNat 32 n)) 0
  | pollInt (b : Byte) : CommandEnds r .pollInt ((r.setFlags (intdec b)).setResult b.toWord) 0
  | decodeInt {b} : CommandEnds r (.decodeInt b) ((r.setFlags (intdec b)).setResult (intdec b).toWord) 0

/-- What is so of a state in the middle of a command that started in `s`. -/
structure State.Running (s s1 : State) : Prop where
  host : s1.host = s.host
  bus : Relation.ReflTransGen Bus.Issues s.bus s1.bus

/-- What is so of a state a command leaves: the host is as before, the bus carried transactions of R61, and the registers are those
before the command, the block waiting, or those of one of the command's ends. -/
structure CommandRan (i : Instr) (s t : State) : Prop where
  host : t.host = s.host
  bus : Relation.ReflTransGen Bus.Issues s.bus t.bus
  regs : (t.regs = s.regs ∧ t.bus.inFlight ≠ none) ∨ ∃ r c, CommandEnds s.start.regs i r c ∧ t.regs = r.setCode c

section
variable {i : Instr} {s s1 t : State}

/-- The first line of a command (R26) begins it. -/
theorem State.running_start : s.Running s.start := ⟨rfl, .refl⟩

/-- Register writes keep a command in its middle. -/
theorem State.Running.update (h : s.Running s1) (f : Regs → Regs) : s.Running (s1.update f) := ⟨h.host, h.bus⟩

/-- So does a transaction of R61. -/
theorem State.Running.issue (h : s.Running s1) {dev : BitVec 7} {t : Transaction} (ht : transactionAllowed t = true) :
    s.Running { s1 with bus := s1.bus.issue dev t } :=
  ⟨h.host, h.bus.tail ⟨dev, t, ht, rfl⟩⟩

/-- A command that ends here has run to one of its ends. -/
theorem State.Running.ended (h : s.Running s1) {c : BitVec 2} (hc : CommandEnds s.start.regs i s1.regs c) :
    CommandRan i s (s1.update fun r => r.setCode c) :=
  ⟨h.host, h.bus, .inr ⟨s1.regs, c, hc, rfl⟩⟩

/-- The OK end. -/
theorem State.Running.finishOk (h : s.Running s1) (hc : CommandEnds s.start.regs i s1.regs 0) : CommandRan i s s1.finishOk :=
  h.ended hc

/-- The end with BUS_ERROR. -/
theorem State.Running.raiseBusError (h : s.Running s1) (hc : CommandEnds s.start.regs i s1.regs 1) :
    CommandRan i s s1.raiseBusError :=
  h.ended hc

/-- A transaction of R61 runs to an end, if what follows its Ok and its Err does. -/
theorem State.Running.transact {dev : BitVec 7} {tr : Transaction} {onErr : State → State} {onOk : Burst → State → State}
    (h : s.Running s1) (htr : transactionAllowed tr = true)
    (ok : ∀ d b, s.Running { s1 with bus := b } → CommandRan i s (onOk d { s1 with bus := b }))
    (err : ∀ b, s.Running { s1 with bus := b } → CommandRan i s (onErr { s1 with bus := b })) :
    CommandRan i s (s1.transact s.regs dev tr onErr onOk) :=
  State.transact_induct (fun d _ => ok d _ (h.issue htr)) (fun _ => err _ (h.issue htr))
    (fun hn => ⟨h.host, (h.issue htr).bus, .inl ⟨rfl, by simp [Bus.issue_inFlight_never hn]⟩⟩)

/-- A block read of R61 runs to an end, if what follows its Ok does. -/
theorem State.Running.memRead {addr : Byte} {n : Nat} {onOk : Burst → State → State}
    (h : s.Running s1) (hread : transactionAllowed (.memRead addr n) = true) (herr : CommandEnds s.start.regs i s1.regs 1)
    (ok : ∀ d b, s.Running { s1 with bus := b } → CommandRan i s (onOk d { s1 with bus := b })) :
    CommandRan i s (s1.memRead s.regs addr n onOk) :=
  h.transact hread ok fun _ hb => hb.raiseBusError herr

/-- A register write runs to an end, if what follows its Ok does. -/
theorem State.Running.memWrite {addr v : Byte} {onOk : State → State}
    (h : s.Running s1) (herr : CommandEnds s.start.regs i s1.regs 1)
    (ok : ∀ b, s.Running { s1 with bus := b } → CommandRan i s (onOk { s1 with bus := b })) :
    CommandRan i s (s1.memWrite s.regs addr v onOk) :=
  h.transact rfl (fun _ => ok) fun _ hb => hb.raiseBusError herr

/-- The loop of CLEAR_SETTINGS runs to an end: its transactions leave the registers alone, so both ends count on the first ones. -/
theorem clearSettingsFrom_ran (ws : List (Byte × Byte)) (n : Nat) :
    CommandRan .clearSettings s (clearSettingsFrom s.regs ws n s.start) :=
  clearSettingsFrom_induct (Q := fun s1 => s.Running s1 ∧ s1.regs = s.start.regs)
    (issue := fun _ _ _ _ ⟨h, hr⟩ _ => ⟨h.issue rfl, hr⟩)
    (done := fun _ n ⟨h, hr⟩ => (h.update _).finishOk (by simpa [hr] using .clearSettings n))
    (err := fun _ _ _ n ⟨h, hr⟩ _ => ((h.issue rfl).update _).raiseBusError (by simpa [hr] using .clearSettingsErr n))
    (never := fun _ _ _ ⟨h, _⟩ hn => ⟨h.host, (h.issue rfl).bus, .inl ⟨rfl, by simp [Bus.issue_inFlight_never hn]⟩⟩)
    ws n s.start ⟨State.running_start, rfl⟩

/-- A bus command runs to an end, if its body does; of an unbound block it ends with BUS_ERROR (R94). -/
theorem busCommand_ran {body : State → State} (h : busCommand s body = .next t) (hi : isBusCommand i = true)
    (hbody : CommandRan i s (body s.start)) : CommandRan i s t :=
  busCommand_induct h (fun _ => hbody) fun _ => State.running_start.raiseBusError (.busError hi)

/-- A bus command of one block read. -/
theorem busCommand_memRead_ran {addr : Byte} {n : Nat} {f : Burst → Regs → Regs}
    (h : busCommand s (fun s1 => s1.memRead s.regs addr n fun d s2 => (s2.update (f d)).finishOk) = .next t)
    (hi : isBusCommand i = true) (hread : transactionAllowed (.memRead addr n) = true)
    (ok : ∀ d, CommandEnds s.start.regs i (f d s.start.regs) 0) : CommandRan i s t :=
  busCommand_ran h hi <| State.running_start.memRead hread (.busError hi) fun d _ hb => (hb.update _).finishOk (ok d)

/-- A bus command of one register write; the byte written may depend on the registers. -/
theorem busCommand_memWrite_ran {addr : Byte} {v : State → Byte} {f : Regs → Regs}
    (h : busCommand s (fun s1 => s1.memWrite s.regs addr (v s1) fun s2 => (s2.update f).finishOk) = .next t)
    (hi : isBusCommand i = true) (ok : CommandEnds s.start.regs i (f s.start.regs) 0) : CommandRan i s t :=
  busCommand_ran h hi <| State.running_start.memWrite (.busError hi) fun _ hb => (hb.update _).finishOk ok

/-- A command that touches no bus runs to its one end. -/
theorem pureCommand_ran {f : Regs → Regs} (h : pureCommand s f = .next t) (ok : CommandEnds s.start.regs i (f s.start.regs) 0) :
    CommandRan i s t := by
  cases h
  exact (State.running_start.update f).finishOk ok

/-- An ill-formed command term ends as ILLEGAL. -/
theorem illegalCommand_ran (h : illegalCommand s = .next t) (hi : i.wellFormed = false) : CommandRan i s t := by
  cases h
  exact State.running_start.ended (.illegal hi)

/-- Every command runs to one of its ends, or waits. -/
theorem exec_ran (h : exec i s = .next t) : CommandRan i s t := by
  cases i with
  | init =>
    cases h
    exact (State.running_start.update _).transact rfl
      (fun _ _ h1 => (h1.update _).memRead rfl .initIdErr fun id _ h2 =>
        (h2.update _).memRead rfl (.initPowerErr id.b0) fun p _ h3 => (h3.update _).finishOk (.init id.b0 p.b0))
      (fun _ h1 => h1.raiseBusError .initOpenErr)
  | readId => exact busCommand_memRead_ran h rfl rfl fun d => .readId d.b0
  | rdreg => exact busCommand_memRead_ran h rfl rfl fun d => .rdreg d.b0
  | wrreg => exact busCommand_memWrite_ran (f := id) (v := fun _ => _) h rfl .wrreg
  | powerOn =>
    simp only [exec, execPowerOn] at h
    exact busCommand_ran h rfl <| State.running_start.memWrite (.busError rfl) fun _ h1 =>
      (h1.update _).memRead rfl .powerOnErr fun d _ h2 => (h2.update _).finishOk (.powerOn d.b0)
  | getPower => exact busCommand_memRead_ran h rfl rfl fun d => .getPower d.b0
  | getOffsets => exact busCommand_memRead_ran h rfl rfl fun d => .getOffsets d.b0 d.b1 d.b2
  | setOffset =>
    simp only [exec, execSetOffset] at h
    split at h
    case h_1 a ha => exact busCommand_memWrite_ran h rfl (.setOffset ha)
    case h_2 ha => exact illegalCommand_ran h (decide_eq_false (not_axis_of_none ha))
  | getFormat => exact busCommand_memRead_ran h rfl rfl fun d => .getFormat d.b0
  | setFormat => exact busCommand_memWrite_ran (f := id) (v := fun _ => _) h rfl .setFormat
  | acquire => exact busCommand_memRead_ran h rfl rfl .acquire
  | pipe => exact pureCommand_ran h .pipe
  | tenc =>
    simp only [exec, execTenc] at h
    split at h
    case h_1 k hk => exact pureCommand_ran h (.tenc hk)
    case h_2 hk => exact illegalCommand_ran h (decide_eq_false (not_kind_of_none hk))
  | tdec =>
    simp only [exec, execTdec] at h
    split at h
    case h_1 k hk => exact pureCommand_ran h (.tdec hk)
    case h_2 hk => exact illegalCommand_ran h (decide_eq_false (not_kind_of_none hk))
  | setThresh =>
    simp only [exec, execSetThresh] at h
    split at h
    case h_1 k hk => exact busCommand_memWrite_ran h rfl (.setThresh hk)
    case h_2 hk => exact illegalCommand_ran h (decide_eq_false (not_kind_of_none hk))
  | getThresh =>
    simp only [exec, execGetThresh] at h
    split at h
    case h_1 k hk => exact busCommand_memRead_ran h rfl rfl fun d => .getThresh d.b0 hk
    case h_2 hk => exact illegalCommand_ran h (decide_eq_false (not_kind_of_none hk))
  | clearSettings => exact busCommand_ran h rfl (clearSettingsFrom_ran clearSettingsWrites 0)
  | pollInt => exact busCommand_memRead_ran h rfl rfl fun d => .pollInt d.b0
  | decodeInt => exact pureCommand_ran h .decodeInt
end

end Sys2Proof.Machine
end

section
/-! SUPPORT. What each end of a command leaves alone (spec/10_state.md R20, column "written by"), and O23, O24, O25. -/

namespace Sys2Proof.Machine

section
variable {i : Instr} {s t : State} {r r' : Regs} {c : BitVec 2}

/-- The column "written by" of R20 for a command, as what it leaves alone. -/
structure CommandFrame (i : Instr) (r r' : Regs) : Prop where
  cmd : r'.cmd = r.cmd
  arg0 : r'.arg0 = r.arg0
  arg1 : r'.arg1 = r.arg1
  binding : isInit i = false → r'.bound = r.bound ∧ r'.busAddr = r.busAddr
  sample : writesSample i = false →
    r'.dataValid = r.dataValid ∧ r'.raw = r.raw ∧ r'.sampleX = r.sampleX ∧ r'.sampleY = r.sampleY ∧
      r'.sampleZ = r.sampleZ ∧ r'.roll = r.roll ∧ r'.pitch = r.pitch
  id : writesId i = false → r'.id = r.id
  powerStatus : writesPowerStatus i = false → r'.powerStatus = r.powerStatus
  offsets : writesOffsets i = false → r'.ofsX = r.ofsX ∧ r'.ofsY = r.ofsY ∧ r'.ofsZ = r.ofsZ
  flags : writesFlags i = false → r'.flags = r.flags

/-- Every end of a command keeps what R20 does not list for it: each end's writes are read off register by register. -/
theorem CommandEnds.frame (h : CommandEnds r i r' c) : CommandFrame i r r' := by
  cases h <;> constructor <;> simp [isInit, writesSample, writesId, writesPowerStatus, writesOffsets, writesFlags]

/-- Every command keeps what R20 does not list for it; while it waits it has written nothing. -/
theorem exec_frame (h : exec i s = .next t) : CommandFrame i s.regs t.regs := by
  obtain ⟨-, -, ⟨hr, -⟩ | ⟨r, c, hend, hr⟩⟩ := exec_ran h
  · rw [hr]
    constructor <;> simp
  · obtain ⟨hcmd, harg0, harg1, hbind, hsample, hid, hpower, hofs, hflags⟩ := hend.frame
    rw [hr]
    exact ⟨hcmd, harg0, harg1, hbind, hsample, hid, hpower, hofs, hflags⟩

/-- An end of a command that has written RESULT: the command's rule names a value, and the end is OK or CLEAR_SETTINGS's (R27). -/
theorem CommandEnds.result (h : CommandEnds r i r' c) (hne : r'.result ≠ r.result) :
    writesResult i = true ∧ (c = 0 ∨ i = .clearSettings) := by
  cases h with
  | illegal | busError | initOpenErr | initIdErr | initPowerErr | powerOnErr | wrreg | setFormat | acquire | pipe =>
    exact absurd rfl hne
  | setOffset => exact absurd (Regs.setOffset_result ..) hne
  | clearSettings | clearSettingsErr => exact ⟨rfl, .inr rfl⟩
  | init | readId | rdreg | powerOn | getPower | getOffsets | getFormat | tenc | tdec | setThresh | getThresh | pollInt
  | decodeInt => exact ⟨rfl, .inl rfl⟩

/-- A command that shows an anomaly at its end is one that may call `anomaly()` (R26). -/
theorem CommandEnds.anomaly (h : CommandEnds r i r' c) (hr : r.anomaly = false) (hr' : r'.anomaly = true) :
    mayBeAnomalous i = true := by
  cases h with
  | initOpenErr | initIdErr | initPowerErr | init | readId | powerOnErr | powerOn => rfl
  | _ => simp [hr] at hr'

/-- CODE is never 3 (R25), and an end as ILLEGAL has written nothing. -/
theorem CommandEnds.code (h : CommandEnds r i r' c) : c ≠ 3 ∧ (c = 2 → r' = r) := by
  cases h <;> simp

end

/-- Settles O23: by the frame of every command (`exec_frame`). -/
theorem registersAreWrittenOnlyByTheirCommands : Obligations.RegistersAreWrittenOnlyByTheirCommands := by
  intro i s t h
  obtain ⟨hcmd, harg0, harg1, hbind, hsample, hid, hpower, hofs, hflags⟩ := exec_frame h
  exact ⟨(exec_ran h).host, hcmd, harg0, harg1, hbind, hsample, hid, hpower, hofs, hflags⟩

/-- Settles O24: a command that waits has written nothing, and of the ends only OK ends and those of CLEAR_SETTINGS write RESULT. -/
theorem resultChangesOnlyOnOkOrByClearSettings : Obligations.ResultChangesOnlyOnOkOrByClearSettings := by
  intro i s t h hne
  obtain ⟨-, -, ⟨hr, -⟩ | ⟨r, c, hend, hr⟩⟩ := exec_ran h
  · exact absurd (congrArg Regs.result hr) hne
  · rw [hr] at hne ⊢
    exact hend.result hne

/-- Settles O25: ANOMALY is cleared first, and only INIT, READ_ID and POWER_ON raise it before their end. -/
theorem anomalyIsRaisedOnlyByThreeCommands : Obligations.AnomalyIsRaisedOnlyByThreeCommands := by
  intro i s t h hidle hanomaly
  obtain ⟨-, -, ⟨-, hwait⟩ | ⟨r, c, hend, hr⟩⟩ := exec_ran h
  · exact absurd hidle hwait
  · rw [hr] at hanomaly
    exact hend.anomaly rfl hanomaly

end Sys2Proof.Machine
end

section
/-! SUPPORT. Two runs of one command (spec/10_state.md R23, R46, spec/30_encoding.md R88), and O26, O27: the second starts with other
values of CODE, ANOMALY, ARG0 and ARG1, and follows the first. One lemma for each shared operation. -/

namespace Sys2Proof.Machine

/-- Values that CODE, ANOMALY, ARG0 and ARG1 are to have in a second run; with `none` the register keeps its own. -/
structure Override where
  code : Option (BitVec 2)
  anomaly : Option Bool
  arg0 : Option Word
  arg1 : Option Word

/-- The registers with the values put in. -/
def Override.regs (u : Override) (r : Regs) : Regs :=
  { r with
    code := u.code.getD r.code, anomaly := u.anomaly.getD r.anomaly, arg0 := u.arg0.getD r.arg0, arg1 := u.arg1.getD r.arg1 }

/-- What is left of it once the command has cleared ANOMALY. -/
def Override.started (u : Override) : Override := { u with anomaly := none }

/-- What is left of it once the command has written CODE too: the arguments. -/
def Override.ended (u : Override) : Override := { u with code := none, anomaly := none }

/-- The second run follows the first one: it has ended in the same state but for the arguments, or both wait with the registers they
started from, those of the first being `base`. -/
def Override.Follows (u : Override) (base : Regs) (t t' : State) : Prop :=
  t' = t.update u.ended.regs ∨ (t.bus.inFlight ≠ none ∧ t.regs = base ∧ t' = t.update u.regs)

/-- Both runs answer a next state, and the second follows the first. -/
def Override.RunFollows (u : Override) (base : Regs) (o o' : Outcome) : Prop :=
  ∃ t t', o = .next t ∧ o' = .next t' ∧ u.Follows base t t'

/-- The command does not see the other arguments: TENC and SET_THRESH read ARG0, and PIPE its six bytes (R23, R88). -/
def Override.UnseenBy (u : Override) (r : Regs) : Instr → Prop
  | .tenc _ => u.arg0 = none
  | .setThresh _ => u.arg0 = none
  | .pipe => pipeBytes (u.regs r).arg0 (u.regs r).arg1 = pipeBytes r.arg0 r.arg1
  | _ => True

section
variable {u : Override} {i : Instr} {s s1 t : State} {base : Regs}

/-- A transaction gets the same answer in both runs, so the second follows if it does after Ok and after Err. -/
theorem Override.transact_follows {dev : BitVec 7} {tr : Transaction} {onErr onErr' : State → State}
    {onOk onOk' : Burst → State → State}
    (ok : ∀ d b, u.Follows base (onOk d { s1 with bus := b }) (onOk' d (State.update { s1 with bus := b } u.started.regs)))
    (err : ∀ b, u.Follows base (onErr { s1 with bus := b }) (onErr' (State.update { s1 with bus := b } u.started.regs))) :
    u.Follows base (s1.transact base dev tr onErr onOk)
      ((s1.update u.started.regs).transact (u.regs base) dev tr onErr' onOk') := by
  have hbus : (s1.update u.started.regs).bus = s1.bus := rfl
  cases h : s1.bus.nextAnswer with
  | ok d => rw [State.transact_ok h, State.transact_ok (hbus ▸ h)]; exact ok d _
  | err => rw [State.transact_err h, State.transact_err (hbus ▸ h)]; exact err _
  | never =>
    rw [State.transact_never h, State.transact_never (hbus ▸ h)]
    exact .inr ⟨by simp [Bus.issue_inFlight_never h], rfl, rfl⟩

/-- A block read, which ends alike on Err. -/
theorem Override.memRead_follows {addr : Byte} {n : Nat} {onOk onOk' : Burst → State → State}
    (ok : ∀ d b, u.Follows base (onOk d { s1 with bus := b }) (onOk' d (State.update { s1 with bus := b } u.started.regs))) :
    u.Follows base (s1.memRead base addr n onOk) ((s1.update u.started.regs).memRead (u.regs base) addr n onOk') :=
  Override.transact_follows ok fun _ => .inl rfl

/-- A register write, which ends alike on Err. -/
theorem Override.memWrite_follows {addr v : Byte} {onOk onOk' : State → State}
    (ok : ∀ b, u.Follows base (onOk { s1 with bus := b }) (onOk' (State.update { s1 with bus := b } u.started.regs))) :
    u.Follows base (s1.memWrite base addr v onOk) ((s1.update u.started.regs).memWrite (u.regs base) addr v onOk') :=
  Override.transact_follows (fun _ => ok) fun _ => .inl rfl

/-- The loop of CLEAR_SETTINGS, which counts alike in both runs. -/
theorem clearSettingsFrom_follows (ws : List (Byte × Byte)) : ∀ (n : Nat) (s1 : State),
    u.Follows base (clearSettingsFrom base ws n s1) (clearSettingsFrom (u.regs base) ws n (s1.update u.started.regs)) := by
  induction ws with
  | nil => exact fun n s1 => .inl rfl
  | cons w ws ih => exact fun n s1 => Override.transact_follows (fun _ _ => ih _ _) fun _ => .inl rfl

/-- A bus command, if its body does; of an unbound block it ends alike in both runs. -/
theorem busCommand_follows {body body' : State → State}
    (hbody : u.Follows s.regs (body s.start) (body' (s.start.update u.started.regs))) :
    u.RunFollows s.regs (busCommand s body) (busCommand (s.update u.regs) body') := by
  have hbound : (s.update u.regs).regs.bound = s.regs.bound := rfl
  cases hb : s.regs.bound with
  | true => exact ⟨_, _, busCommand_bound hb _, busCommand_bound (hbound ▸ hb) _, hbody⟩
  | false => exact ⟨_, _, busCommand_not_bound hb _, busCommand_not_bound (hbound ▸ hb) _, .inl rfl⟩

/-- A bus command of one block read. -/
theorem busCommand_memRead_follows {addr : Byte} {n : Nat} {onOk : Burst → State → State}
    (ok : ∀ d b, u.Follows s.regs (onOk d { s.start with bus := b })
      (onOk d (State.update { s.start with bus := b } u.started.regs))) :
    u.RunFollows s.regs (busCommand s fun s1 => s1.memRead s.regs addr n onOk)
      (busCommand (s.update u.regs) fun s1 => s1.memRead (u.regs s.regs) addr n onOk) :=
  busCommand_follows (Override.memRead_follows ok)

/-- A bus command of one register write; the byte written must not see the other arguments. -/
theorem busCommand_memWrite_follows {addr : Byte} {v : State → Byte} {onOk : State → State}
    (hv : v (s.start.update u.started.regs) = v s.start)
    (ok : ∀ b, u.Follows s.regs (onOk { s.start with bus := b }) (onOk (State.update { s.start with bus := b } u.started.regs))) :
    u.RunFollows s.regs (busCommand s fun s1 => s1.memWrite s.regs addr (v s1) onOk)
      (busCommand (s.update u.regs) fun s1 => s1.memWrite (u.regs s.regs) addr (v s1) onOk) :=
  busCommand_follows (by rw [hv]; exact Override.memWrite_follows ok)

/-- A command that touches no bus, if its writes do not see the other arguments. -/
theorem pureCommand_follows {f : Regs → Regs} (hf : f (u.started.regs s.start.regs) = u.started.regs (f s.start.regs)) :
    u.RunFollows s.regs (pureCommand s f) (pureCommand (s.update u.regs) f) :=
  ⟨_, _, rfl, rfl, .inl (congrArg (fun r => State.finishOk { s with regs := r }) hf)⟩

/-- An ill-formed command term ends alike in both runs. -/
theorem illegalCommand_follows : u.RunFollows s.regs (illegalCommand s) (illegalCommand (s.update u.regs)) :=
  ⟨_, _, rfl, rfl, .inl rfl⟩

/-- The second run of every command that does not see the other arguments follows the first. -/
theorem exec_follows (hu : u.UnseenBy s.regs i) : u.RunFollows s.regs (exec i s) (exec i (s.update u.regs)) := by
  cases i with
  | init =>
    exact ⟨_, _, rfl, rfl, Override.transact_follows (s1 := s.start.update Regs.release)
      (fun _ _ => Override.memRead_follows (s1 := State.update _ _) fun _ _ =>
        Override.memRead_follows (s1 := State.update _ _) fun _ _ => .inl rfl)
      (fun _ => .inl rfl)⟩
  | readId | rdreg | getPower | getOffsets | getFormat | acquire | pollInt =>
    exact busCommand_memRead_follows fun _ _ => .inl rfl
  | wrreg | setFormat => exact busCommand_memWrite_follows (v := fun _ => _) rfl fun _ => .inl rfl
  | powerOn =>
    simp only [exec, execPowerOn]
    exact busCommand_follows <| Override.memWrite_follows fun _ =>
      Override.memRead_follows (s1 := State.update _ _) fun _ _ => .inl rfl
  | setOffset =>
    simp only [exec, execSetOffset]
    split
    case h_1 a _ => exact busCommand_memWrite_follows rfl fun _ => .inl (by cases a <;> rfl)
    case h_2 => exact illegalCommand_follows
  | pipe => exact pureCommand_follows (congrArg (u.started.regs s.start.regs).runPipeline hu)
  | tenc =>
    obtain ⟨_, _, _, _⟩ := u
    cases hu
    simp only [exec, execTenc]
    split
    · exact pureCommand_follows rfl
    · exact illegalCommand_follows
  | setThresh =>
    obtain ⟨_, _, _, _⟩ := u
    cases hu
    simp only [exec, execSetThresh]
    split
    · exact busCommand_memWrite_follows rfl fun _ => .inl rfl
    · exact illegalCommand_follows
  | tdec =>
    simp only [exec, execTdec]
    split
    · exact pureCommand_follows rfl
    · exact illegalCommand_follows
  | getThresh =>
    simp only [exec, execGetThresh]
    split
    · exact busCommand_memRead_follows fun _ _ => .inl rfl
    · exact illegalCommand_follows
  | clearSettings => exact busCommand_follows (clearSettingsFrom_follows clearSettingsWrites 0 _)
  | decodeInt => exact pureCommand_follows rfl

end

/-- Settles O26: the second run starts with the given CODE and ANOMALY; the first has ended, so the second ends alike. -/
theorem commandsIgnoreThePreviousOutcome : Obligations.CommandsIgnoreThePreviousOutcome := by
  intro i s t c a h hidle
  have hunseen : Override.UnseenBy ⟨some c, some a, none, none⟩ s.regs i := by cases i <;> trivial
  obtain ⟨t₁, t', h₁, h', hfollows⟩ := exec_follows hunseen
  cases h.symm.trans h₁
  obtain rfl | ⟨hwait, -⟩ := hfollows
  · exact h'
  · exact absurd hidle hwait

/-- With other arguments alone, a command that does not see them leaves what it leaves without, but for the arguments. -/
theorem exec_update_args {u : Override} (hargs : u = u.ended) {i : Instr} {s t : State} (hu : u.UnseenBy s.regs i)
    (h : exec i s = .next t) : exec i (s.update u.regs) = .next (t.update u.regs) := by
  obtain ⟨t₁, t', h₁, h', hfollows⟩ := exec_follows hu
  cases h.symm.trans h₁
  obtain rfl | ⟨-, -, rfl⟩ := hfollows
  · rwa [← hargs] at h'
  · exact h'

/-- R88: PIPE's bytes come from ARG0 and ARG1[15:0]. -/
theorem pipeBytes_low_half {y z : Word} (h : y.extractLsb' 0 16 = z.extractLsb' 0 16) (x : Word) :
    pipeBytes x y = pipeBytes x z := by
  have low {start : Nat} (hs : start + 8 ≤ 16) : y.extractLsb' start 8 = z.extractLsb' start 8 := by
    rw [← BitVec.extractLsb'_extractLsb'_of_le hs, h, BitVec.extractLsb'_extractLsb'_of_le hs]
  rw [pipeBytes, low (start := 0) (by decide), low (start := 8) (by decide), pipeBytes]

/-- Settles O27: the commands other than TENC, SET_THRESH and PIPE see no argument, and of ARG1 alone PIPE sees the low half. -/
theorem argumentsAreReadOnlyByTheirCommands : Obligations.ArgumentsAreReadOnlyByTheirCommands := by
  refine ⟨fun i s t x y h hpipe htenc hset => ?_, fun i s t y h hpipe => ?_⟩
  · refine exec_update_args (u := ⟨none, none, some x, some y⟩) rfl ?_ h
    cases i with
    | pipe => exact absurd rfl hpipe
    | tenc k => exact absurd rfl (htenc k)
    | setThresh k => exact absurd rfl (hset k)
    | _ => trivial
  · refine exec_update_args (u := ⟨none, none, none, some y⟩) rfl ?_ h
    cases i with
    | pipe => exact pipeBytes_low_half (hpipe rfl) _
    | tenc | setThresh => rfl
    | _ => trivial

end Sys2Proof.Machine
end

section
/-! SUPPORT. One step (spec/20_memory.md R69, spec/30_encoding.md R93) and the STATUS view (spec/10_state.md R24), with O7, O9,
O11 and O13. -/

namespace Sys2Proof.Machine

/-- A word that does not decode ends as ILLEGAL (R92). -/
theorem runWord_of_error {w : Word} {e : DecodeError} (h : decode w = .error e) (s : State) :
    runWord w s = .next s.raiseIllegal := by
  simp [runWord, h]

/-- Settles O7: a write of CMD is taken first, then its word is decoded; CMD is in the frame of every command. -/
theorem cmdWriteStoresThenExecutes : Obligations.CmdWriteStoresThenExecutes := by
  refine ⟨fun s w rest i hidle hp hw => ?_, fun s w rest e hidle hp hw => ?_, fun i s t h => (exec_frame h).cmd, fun r => rfl⟩
  · rw [step_of_pending hidle hp]
    exact runWord_of_decode hw _
  · rw [step_of_pending hidle hp]
    exact runWord_of_error hw _

/-- Settles O9: the placed word is the next input, and nothing is in flight. -/
theorem placedWordIsRunByTheNextStep : Obligations.PlacedWordIsRunByTheNextStep := by
  intro s w i hw
  have hplaced : BitVec.ofNat 32 (w.toNat % 2 ^ 32) = w := BitVec.eq_of_toNat_eq (by simp [w.isLt])
  rw [step_of_pending (s := s.withFetchWord 32 w.toNat) rfl rfl, hplaced]
  exact runWord_of_decode hw _

/-- Settles O11: the step takes the write, which is of ARG0 or of ARG1. -/
theorem hostWritesOfArgumentsAreStored : Obligations.HostWritesOfArgumentsAreStored :=
  fun _ _ _ hidle => ⟨fun hp => step_of_pending hidle hp, fun hp => step_of_pending hidle hp⟩

/-- Settles O13: STATUS is five fields one above another, and each adds its number above those below. -/
theorem statusIsAViewOfFourRegisters : Obligations.StatusIsAViewOfFourRegisters := by
  intro r
  have h : hostRead r 0x0C = statusWord r := rfl
  rw [h, statusWord]
  simp only [toNat_append_add, BitVec.toNat_ofBool, BitVec.toNat_ofNat]
  omega

end Sys2Proof.Machine
end

section
/-! SUPPORT. The invariant (spec/10_state.md R25, R33 to R36, spec/20_memory.md R61, R67): every end of a command keeps it, so
every step does, and it holds at reset. O59, O60. -/

namespace Sys2Proof.Machine

/-- The reset value of the mirror is a coherent sample: six zero bytes, no orientation. -/
theorem Regs.clearMirror_sample (r : Regs) : r.clearMirror.SampleCoherent ∧ r.clearMirror.OrientationCoherent :=
  ⟨by simp [SampleCoherent, Burst.zero, decode6, pair16], by simp [OrientationCoherent]⟩

/-- The pipeline leaves a coherent sample. -/
theorem Regs.runPipeline_sample (r : Regs) (b : Burst) :
    (r.runPipeline b).SampleCoherent ∧ (r.runPipeline b).OrientationCoherent :=
  ⟨rfl, rfl⟩

/-- INTDEC leaves bit 7 of FLAGS at 0 (R190). -/
theorem intdec_bit7 (b : Byte) : (intdec b).getLsbD 7 = false := by
  simp [intdec]

section
variable {i : Instr} {s t : State} {r r' : Regs} {c : BitVec 2}

/-- Every end of a command keeps the sample coherent: it leaves it alone, or INIT clears it, or the pipeline replaces it. -/
theorem CommandEnds.sample (h : CommandEnds r i r' c) (hr : r.SampleCoherent ∧ r.OrientationCoherent) :
    r'.SampleCoherent ∧ r'.OrientationCoherent := by
  cases hw : writesSample i with
  | false =>
    obtain ⟨hvalid, hraw, hx, hy, hz, hroll, hpitch⟩ := h.frame.sample hw
    unfold Regs.SampleCoherent Regs.OrientationCoherent
    rw [hvalid, hraw, hx, hy, hz, hroll, hpitch]
    exact hr
  | true =>
    cases h with
    | illegal | busError | initOpenErr => exact hr
    | initIdErr | initPowerErr | init => exact Regs.clearMirror_sample r
    | acquire | pipe => exact Regs.runPipeline_sample _ _
    | _ => cases hw

/-- Every end of a command keeps FLAGS[7] at 0. -/
theorem CommandEnds.flags (h : CommandEnds r i r' c) (hr : r.flags.getLsbD 7 = false) : r'.flags.getLsbD 7 = false := by
  cases hw : writesFlags i with
  | false => rw [h.frame.flags hw]; exact hr
  | true =>
    cases h with
    | illegal | busError | initOpenErr => exact hr
    | initIdErr | initPowerErr | init => exact BitVec.getLsbD_zero
    | pollInt | decodeInt => exact intdec_bit7 _
    | _ => cases hw

/-- Every end of a command shows a legal status (R25, R36, R92). -/
theorem CommandEnds.status (h : CommandEnds r i r' c) (hflags : r.flags.getLsbD 7 = false) (hr : r.anomaly = false) :
    (r'.setCode c).StatusLegal := by
  obtain ⟨hne, hillegal⟩ := h.code
  exact ⟨hne, h.flags hflags, fun hc => by simp [hillegal hc, hr]⟩

/-- Transactions of R61 keep the bus's part of the invariant; a wait is for the last of them. -/
theorem Bus.issues_keeps {b b' : Bus} (h : Relation.ReflTransGen Bus.Issues b b')
    (hb : b.TransactionsAllowed ∧ b.WaitCoherent) : b'.TransactionsAllowed ∧ b'.WaitCoherent := by
  induction h with
  | refl => exact hb
  | tail _ hissue ih =>
    obtain ⟨dev, t, ht, rfl⟩ := hissue
    refine ⟨?_, fun t' hwait => ?_⟩
    · intro e he
      obtain he | rfl : e ∈ _ ∨ e = _ := by simpa using he
      · exact ih.1 e he
      · exact ht
    · refine ⟨_, List.getLast?_concat .., ?_⟩
      cases hn : Bus.nextAnswer _ with
      | ok => simp [Bus.issue_inFlight_ok hn] at hwait
      | err => simp [Bus.issue_inFlight_err hn] at hwait
      | never => exact ⟨by simpa [Bus.issue_inFlight_never hn] using hwait, rfl⟩

/-- Every command keeps the invariant. -/
theorem exec_inv (h : exec i s = .next t) (hs : s.Inv) : t.Inv := by
  obtain ⟨hsample, horient, ⟨hcode, hflags, hillegal⟩, htrans, hwait⟩ := hs
  obtain ⟨-, hbus, hregs⟩ := exec_ran h
  obtain ⟨htrans', hwait'⟩ := Bus.issues_keeps hbus ⟨htrans, hwait⟩
  obtain ⟨hr, -⟩ | ⟨r, c, hend, hr⟩ := hregs
  · rw [← hr] at hsample horient hcode hflags hillegal
    exact ⟨hsample, horient, ⟨hcode, hflags, hillegal⟩, htrans', hwait'⟩
  · obtain ⟨hsample', horient'⟩ := hend.sample ⟨hsample, horient⟩
    have hstatus' := hend.status hflags rfl
    exact ⟨by rw [hr]; exact hsample', by rw [hr]; exact horient', by rw [hr]; exact hstatus', htrans', hwait'⟩

/-- The registers only the host writes, and the host's own side, are no part of the invariant. -/
theorem State.Inv.host_side (hs : s.Inv) (cmd arg0 arg1 : Word) (port : HostPort) :
    State.Inv { s with regs := { s.regs with cmd := cmd, arg0 := arg0, arg1 := arg1 }, host := port } :=
  ⟨hs.sample, hs.orientation, hs.status, hs.transactions, hs.waiting⟩

/-- Running a word keeps the invariant: a command does, and an ILLEGAL word writes CODE and ANOMALY alone (R92). -/
theorem runWord_inv {w : Word} (h : runWord w s = .next t) (hs : s.Inv) : t.Inv := by
  cases hw : decode w with
  | ok i => rw [runWord_of_decode hw] at h; exact exec_inv h hs
  | error e =>
    rw [runWord_of_error hw] at h
    cases h
    obtain ⟨-, hflags, -⟩ := hs.status
    exact ⟨hs.sample, hs.orientation, ⟨by simp, hflags, fun _ => rfl⟩, hs.transactions, hs.waiting⟩

/-- The registers' part of the invariant is so at reset. -/
theorem Regs.reset_coherent : Regs.reset.SampleCoherent ∧ Regs.reset.OrientationCoherent ∧ Regs.reset.StatusLegal :=
  ⟨by decide, ⟨rfl, rfl, rfl⟩, by decide⟩

/-- The reset input establishes the registers' part and ends every wait. -/
theorem State.applyReset_inv (hs : s.Inv) : s.applyReset.Inv := by
  obtain ⟨hsample, horient, hstatus⟩ := Regs.reset_coherent
  exact ⟨hsample, horient, hstatus, hs.transactions, nofun⟩

/-- A host write keeps the invariant: of CMD it runs a word, and ARG0 and ARG1 are no part of the invariant. -/
theorem hostWrite_inv {offset : Byte} {v : Word} (h : hostWrite offset v s = .next t) (hs : s.Inv) : t.Inv := by
  unfold hostWrite at h
  split at h
  · exact runWord_inv h (hs.host_side v _ _ _)
  · cases h
    exact hs.host_side _ v _ _
  · cases h
    exact hs.host_side _ _ v _
  · cases h
    exact hs

/-- Every input keeps the invariant. -/
theorem acceptInput_inv {x : HostInput} (h : acceptInput x s = .next t) (hs : s.Inv) : t.Inv := by
  cases x with
  | read width offset =>
    simp only [acceptInput] at h
    split at h <;> cases h
    exact hs.host_side _ _ _ _
  | write width offset v =>
    simp only [acceptInput] at h
    split at h
    · exact hostWrite_inv h hs
    · cases h
  | reset =>
    cases h
    exact State.applyReset_inv hs

/-- Taking an input from the host keeps the invariant. -/
theorem State.withPending_inv (hs : s.Inv) (rest : List HostInput) : (s.withPending rest).Inv := hs.host_side _ _ _ _

end

/-- Settles O59: a step takes one input, or waits for one, or is the reset that ends a wait. -/
theorem stepKeepsTheInvariant : Obligations.StepKeepsTheInvariant := by
  intro s t hs h
  simp only [step, takeStep] at h
  split at h
  · unfold takeInput at h
    split at h
    · exact acceptInput_inv h (State.withPending_inv hs _)
    · cases h
      exact hs
  · unfold waitForTransport at h
    split at h <;> cases h
    exact State.applyReset_inv (State.withPending_inv hs _)

/-- Settles O60: with nothing issued, and the registers as `Regs.reset_coherent` says. -/
theorem resetMeetsTheInvariant : Obligations.ResetMeetsTheInvariant := by
  obtain ⟨hsample, horient, hstatus⟩ := Regs.reset_coherent
  exact ⟨hsample, horient, hstatus, nofun, nofun⟩

end Sys2Proof.Machine
end

section
/-! SUPPORT. The host's accesses (spec/20_memory.md R55 to R58): what a write does at each offset, which accesses a step
accepts, and what a read shows, with O10, O12, O14. -/

namespace Sys2Proof.Machine

section
variable {s t : State} {width : HostWidth} {offset : Byte} {v : Word} {rest : List HostInput}

/-- CMD, ARG0 and ARG1 stand below 0x0C; a write from there on changes nothing (R57). -/
theorem hostWrite_ignored (h : 0x0C ≤ offset.toNat) (v : Word) (s : State) : hostWrite offset v s = .next s := by
  cases hreg : hostRegAt offset with
  | none => simp [hostWrite, hreg]
  | some reg =>
    obtain rfl := offset_of_hostRegAt hreg
    cases reg with
    | cmd | arg0 | arg1 => exact absurd h (by decide)
    | _ => rfl

/-- No command refuses or faults (R220): it is a bus command, a command without a bus, INIT, or ILLEGAL. -/
theorem exec_next (i : Instr) (s : State) : ∃ t, exec i s = .next t := by
  cases i with
  | setOffset | tenc | tdec | setThresh | getThresh =>
    simp only [exec, execSetOffset, execTenc, execTdec, execSetThresh, execGetThresh]
    split <;> exact ⟨_, rfl⟩
  | _ => exact ⟨_, rfl⟩

/-- No host write that the window accepts refuses or faults. -/
theorem hostWrite_next (offset : Byte) (v : Word) (s : State) : ∃ t, hostWrite offset v s = .next t := by
  unfold hostWrite
  split
  · unfold writeCmd
    cases hw : decode v with
    | ok i => rw [runWord_of_decode hw]; exact exec_next i _
    | error e => exact ⟨_, runWord_of_error hw _⟩
  all_goals exact ⟨_, rfl⟩

/-- The step that takes an accepted read. -/
theorem step_read (hidle : s.bus.inFlight = none) (hp : s.host.pending = .read width offset :: rest)
    (hok : hostAccessOk width offset = true) : step s = .next ((s.withPending rest).answerRead offset) := by
  rw [step_of_pending hidle hp, acceptInput, if_pos hok]

/-- The step that takes an accepted write. -/
theorem step_write (hidle : s.bus.inFlight = none) (hp : s.host.pending = .write width offset v :: rest)
    (hok : hostAccessOk width offset = true) : step s = hostWrite offset v (s.withPending rest) := by
  rw [step_of_pending hidle hp, acceptInput, if_pos hok]

/-- Every other access is refused (R56). -/
theorem step_refused (hidle : s.bus.inFlight = none)
    (hp : s.host.pending = .read width offset :: rest ∨ s.host.pending = .write width offset v :: rest)
    (hok : ¬hostAccessOk width offset = true) : step s = .refused .hostAccessNotAlignedWord := by
  obtain hp | hp := hp <;> rw [step_of_pending hidle hp, acceptInput, if_neg hok]

end

/-- Settles O10: the write is ignored (`hostWrite_ignored`), and the read is answered by the window alone. -/
theorem readOnlyAndReservedOffsetsIgnoreWrites : Obligations.ReadOnlyAndReservedOffsetsIgnoreWrites := by
  refine ⟨fun s off v rest hidle hp halign hoff => ?_, fun s off rest hidle hp halign => ?_,
    fun r off h => hostRead_reserved h r⟩
  · rw [step_write hidle hp ((hostAccessOk_iff _ _).2 ⟨rfl, halign⟩)]
    exact hostWrite_ignored hoff v _
  · exact step_read hidle hp ((hostAccessOk_iff _ _).2 ⟨rfl, halign⟩)

/-- Settles O12: an accepted read is answered, an accepted write has a next state, and the rest is refused. -/
theorem windowAcceptsOnlyAlignedWords : Obligations.WindowAcceptsOnlyAlignedWords := by
  intro s width off v rest hidle hp
  rw [← hostAccessOk_iff]
  refine ⟨fun hok => ?_, step_refused hidle hp⟩
  obtain hp | hp := hp
  · exact ⟨_, step_read hidle hp hok⟩
  · rw [step_write hidle hp hok]
    exact hostWrite_next off v _

/-- A byte register is shown in the low bits of its word (R58). -/
theorem Byte.toWord_toNat (b : Byte) : b.toWord.toNat = b.toNat := by
  rw [Byte.toWord, BitVec.toNat_setWidth_of_le (by decide)]

/-- The two words of a binary64 register, low word first (R60), make up its pattern. -/
theorem f64_words_toNat (x : F64) :
    (x.extractLsb' 0 32).toNat + 2 ^ 32 * (x.extractLsb' 32 32).toNat = x.toNat := by
  have := x.isLt
  rw [BitVec.extractLsb'_toNat, BitVec.extractLsb'_toNat, Nat.shiftRight_zero, Nat.shiftRight_eq_div_pow]
  omega

/-- Settles O14: each register's word is its field, its packed fields, or a half of it. -/
theorem windowPacksTheRegisters : Obligations.WindowPacksTheRegisters := by
  intro r
  have hoffsets : hostRead r 0x1C = 0#8 ++ r.ofsZ ++ r.ofsY ++ r.ofsX := rfl
  have hraw0 : hostRead r 0x20 = r.raw.b3 ++ r.raw.b2 ++ r.raw.b1 ++ r.raw.b0 := rfl
  have hraw1 : hostRead r 0x24 = 0#16 ++ r.raw.b5 ++ r.raw.b4 := rfl
  have hsampleXy : hostRead r 0x28 = r.sampleY ++ r.sampleX := rfl
  have hsampleZ : hostRead r 0x2C = 0#16 ++ r.sampleZ := rfl
  refine ⟨rfl, rfl, rfl, rfl, Byte.toWord_toNat _, Byte.toWord_toNat _, ?_, ?_, ?_, ?_, ?_, f64_words_toNat _,
    f64_words_toNat _, Byte.toWord_toNat _, BitVec.toNat_setWidth_of_le (by decide)⟩
  · rw [hoffsets]; simp only [toNat_append_add, BitVec.toNat_ofNat]; omega
  · rw [hraw0]; simp only [toNat_append_add]; omega
  · rw [hraw1]; simp only [toNat_append_add, BitVec.toNat_ofNat]; omega
  · rw [hsampleXy]; simp only [toNat_append_add]; omega
  · rw [hsampleZ]; simp only [toNat_append_add, BitVec.toNat_ofNat]; omega

end Sys2Proof.Machine
end

section
/-! SUPPORT. Waiting and one transaction (spec/20_memory.md R62, R67, R68), with O17, O19. -/

namespace Sys2Proof.Machine

/-- Settles O17: a wait ends by a reset input alone, and without an input there is nothing to take. -/
theorem waitingForTheTransportEndsOnlyByReset : Obligations.WaitingForTheTransportEndsOnlyByReset := by
  refine ⟨fun s t hwait hp => ?_, fun s hidle hp => ?_⟩
  · rw [step_of_waiting hwait, waitForTransport]
    split
    · rename_i rest hreset
      exact absurd hreset (hp rest)
    · rfl
  · simp [step, takeStep, takeInput, hidle, hp]

section
variable {b : Bus} (dev : BitVec 7) (t : Transaction)

/-- An answer other than `never` leaves nothing in flight. -/
theorem Bus.issue_inFlight_of_answered (h : b.nextAnswer ≠ .never) : (b.issue dev t).inFlight = none := by
  cases hn : b.nextAnswer with
  | ok => exact Bus.issue_inFlight_ok hn dev t
  | err => exact Bus.issue_inFlight_err hn dev t
  | never => exact absurd hn h

/-- A determined answer is used up, and none is drawn. -/
theorem Bus.issue_of_answers {a : Answer} {rest : List Answer} (h : b.answers = a :: rest) :
    (b.issue dev t).answers = rest ∧ (b.issue dev t).drawn = b.drawn := by
  simp [Bus.issue, h]

/-- Without a determined answer the next free one is drawn. -/
theorem Bus.issue_of_no_answers (h : b.answers = []) :
    b.nextAnswer = Config.transportAnswer b.drawn ∧ (b.issue dev t).answers = [] ∧ (b.issue dev t).drawn = b.drawn + 1 := by
  simp [Bus.nextAnswer, Bus.issue, h]

end

/-- An Ok with at most six bytes carries as many as were asked for (R62). -/
theorem Burst.toList_take_length (d : Burst) {n : Nat} (h : n ≤ 6) : (d.toList.take n).length = n := by
  simp [Burst.toList, h]

/-- Settles O19: where the answer comes from, the one event added to the history, and what is in flight. -/
theorem transactionIsRecordedWithItsReply : Obligations.TransactionIsRecordedWithItsReply := by
  intro b dev t n
  have hn : n = transactionReadCount t := by cases t <;> rfl
  refine ⟨fun a rest h => ⟨Bus.nextAnswer_of_answers h, Bus.issue_of_answers dev t h⟩, Bus.issue_of_no_answers dev t,
    ⟨⟨dev, t, answerReply t b.nextAnswer⟩, Bus.issue_history b dev t, rfl, rfl, fun d h => ?_, fun h => ?_, fun h => ?_⟩,
    fun h => Bus.issue_inFlight_never h dev t, Bus.issue_inFlight_of_answered dev t⟩
  · refine ⟨d.toList.take n, ?_, rfl, Burst.toList_take_length d⟩
    rw [h, hn, answerReply]
  · rw [h, answerReply]
  · rw [h, answerReply]

end Sys2Proof.Machine
end

section
/-! SUPPORT. The pure commands (spec/20_memory.md R66) and O22: what they read is left alone by what they write. -/

namespace Sys2Proof.Machine

/-- The registers a command that touches no bus leaves: ANOMALY is cleared first, then the command's writes, then CODE is OK. -/
def Regs.complete (f : Regs → Regs) (r : Regs) : Regs := (f (r.setAnomaly false)).setCode 0

/-- A command that touches no bus changes the registers alone. -/
theorem pureCommand_eq (s : State) (f : Regs → Regs) : pureCommand s f = .next (s.update (Regs.complete f)) := rfl

section
variable {s t : State}

/-- A command that touches no bus, reads `v` of the registers and then writes as `g` says is idempotent, if the writes leave `v`
alone and are the same when made again. -/
theorem pureCommand_idempotent {α : Type} {v : Regs → α} {g : α → Regs → Regs}
    (hv : ∀ x r, v ((Regs.complete (g x) r).setAnomaly false) = v (r.setAnomaly false))
    (hg : ∀ x r, Regs.complete (g x) (Regs.complete (g x) r) = Regs.complete (g x) r)
    (h : pureCommand s (fun r => g (v r) r) = .next t) : pureCommand t (fun r => g (v r) r) = .next t := by
  rw [pureCommand_eq] at h ⊢
  cases h
  have hread := hv (v (s.regs.setAnomaly false)) s.regs
  have hwrite := hg (v (s.regs.setAnomaly false)) s.regs
  refine congrArg (fun r => Host.Outcome.next { s with regs := r }) (Eq.trans ?_ hwrite)
  exact congrArg (fun x => Regs.complete (g x) (Regs.complete (g (v (s.regs.setAnomaly false))) s.regs)) hread

/-- ILLEGAL is idempotent. -/
theorem illegalCommand_idempotent (h : illegalCommand s = .next t) : illegalCommand t = .next t := by
  cases h
  rfl

end

/-- Settles O22: a pure command reads its term and ARG0 and ARG1, and writes neither. -/
theorem pureCommandsAreIdempotent : Obligations.PureCommandsAreIdempotent := by
  intro i s t hi h
  cases i with
  | pipe =>
    simp only [exec, execPipe] at h ⊢
    exact pureCommand_idempotent (v := fun r => pipeBytes r.arg0 r.arg1) (g := fun b r => r.runPipeline b)
      (fun _ _ => rfl) (fun _ _ => rfl) h
  | decodeInt status =>
    simp only [exec, execDecodeInt] at h ⊢
    exact pureCommand_idempotent (v := fun _ => intdec status) (g := fun x r => (r.setFlags x).setResult x.toWord)
      (fun _ _ => rfl) (fun _ r => by cases r; rfl) h
  | tenc =>
    simp only [exec, execTenc] at h ⊢
    split at h
    case h_1 k _ =>
      exact pureCommand_idempotent (v := fun r => (thresholdEncode r.arg0 k).toWord) (g := fun x r => r.setResult x)
        (fun _ _ => rfl) (fun _ _ => rfl) h
    case h_2 => exact illegalCommand_idempotent h
  | tdec kind code =>
    simp only [exec, execTdec] at h ⊢
    split at h
    case h_1 k _ =>
      exact pureCommand_idempotent (v := fun _ => thresholdDecode code k) (g := fun x r => r.setResult x)
        (fun _ _ => rfl) (fun _ _ => rfl) h
    case h_2 => exact illegalCommand_idempotent h
  | _ => cases hi

end Sys2Proof.Machine
end

section
/-! SUPPORT. The transactions of a command as the history shows them (spec/20_memory.md R61), and O28. -/

namespace Sys2Proof.Machine

/-- The transactions of R61, one by one. -/
theorem transactionAllowed_cases {t : Transaction} (h : transactionAllowed t = true) :
    (∃ a, t = .busOpen a) ∨ (∃ a, t = .memRead a 1) ∨ (∃ a v, t = .memWrite a [v]) ∨
      t = .memRead 30 3 ∨ t = .memRead 50 6 := by
  cases t with
  | busOpen a => exact .inl ⟨a, rfl⟩
  | memRead a n =>
    have hn : (n = 1 ∨ a = 30 ∧ n = 3) ∨ a = 50 ∧ n = 6 := by simpa [transactionAllowed] using h
    obtain (rfl | ⟨rfl, rfl⟩) | ⟨rfl, rfl⟩ := hn
    · exact .inr (.inl ⟨a, rfl⟩)
    · exact .inr (.inr (.inr (.inl rfl)))
    · exact .inr (.inr (.inr (.inr rfl)))
  | memWrite a bytes =>
    obtain ⟨v, rfl⟩ := List.length_eq_one_iff.1 (of_decide_eq_true h)
    exact .inr (.inr (.inl ⟨a, v, rfl⟩))

/-- Issuing transactions of R61 appends events of R61 to the history. -/
theorem Bus.issues_history {b b' : Bus} (h : Relation.ReflTransGen Bus.Issues b b') :
    ∃ es : List BusEvent, b'.history = b.history ++ es ∧ ∀ e ∈ es, transactionAllowed e.transaction = true := by
  induction h with
  | refl => exact ⟨[], by simp, by simp⟩
  | tail _ hissue ih =>
    obtain ⟨es, hes, hallowed⟩ := ih
    obtain ⟨dev, t, ht, rfl⟩ := hissue
    refine ⟨es ++ [⟨dev, t, _⟩], by rw [Bus.issue_history, hes, List.append_assoc], ?_⟩
    simpa [or_imp, forall_and, ht] using hallowed

/-- Settles O28: a command's bus only ever carries transactions of R61 (`exec_ran`). -/
theorem onlyTheListedTransactionsAreIssued : Obligations.OnlyTheListedTransactionsAreIssued := by
  intro i s t h
  obtain ⟨es, hes, hallowed⟩ := Bus.issues_history (exec_ran h).bus
  exact ⟨es, hes, fun e he => transactionAllowed_cases (hallowed e he)⟩

end Sys2Proof.Machine
end

section
/-! SUPPORT. The transactions of each command, in order (spec/20_memory.md R77), and O30: a command follows its list up to the first
transaction that is not Ok. One lemma for each shared operation. -/

namespace Sys2Proof.Machine

/-- `b.Follows ts b'` says that the bus `b` becomes `b'` by the transactions `ts` in order, up to the first that is not Ok. -/
inductive Bus.Follows : List Transaction → Bus → Bus → Prop where
  | done (b : Bus) : Bus.Follows [] b b
  | ok {t : Transaction} {ts : List Transaction} {b b' : Bus} {d : Burst} (dev : BitVec 7) :
    b.nextAnswer = .ok d → Bus.Follows ts (b.issue dev t) b' → Bus.Follows (t :: ts) b b'
  | stop {t : Transaction} {ts : List Transaction} {b : Bus} (dev : BitVec 7) :
    (∀ d, b.nextAnswer ≠ .ok d) → Bus.Follows (t :: ts) b (b.issue dev t)

/-- What is so of the events of a command whose list is `ts`: they are a beginning of the list, only the last may be other than Ok,
and with none other they are the whole list. -/
structure EventsFollow (ts : List Transaction) (es : List BusEvent) : Prop where
  isPrefix : es.map (·.transaction) <+: ts
  ok : ∀ e ∈ es.dropLast, ∃ bytes, e.reply = .ok bytes
  complete : (∀ e ∈ es, ∃ bytes, e.reply = .ok bytes) → es.map (·.transaction) = ts

/-- One Ok event before them. -/
theorem EventsFollow.cons {ts : List Transaction} {es : List BusEvent} (h : EventsFollow ts es) {e : BusEvent}
    (he : ∃ bytes, e.reply = .ok bytes) : EventsFollow (e.transaction :: ts) (e :: es) := by
  refine ⟨(List.prefix_cons_inj _).2 h.isPrefix, fun e' he' => ?_, fun hall => ?_⟩
  · cases es with
    | nil => cases he'
    | cons e₂ es₂ =>
      obtain rfl | he' := List.mem_cons.1 he'
      · exact he
      · exact h.ok e' he'
  · exact congrArg _ (h.complete fun e' he' => hall e' (List.mem_cons_of_mem _ he'))

/-- One event that is not Ok ends them. -/
theorem EventsFollow.single {e : BusEvent} (he : ¬∃ bytes, e.reply = .ok bytes) (ts : List Transaction) :
    EventsFollow (e.transaction :: ts) [e] :=
  ⟨List.prefix_append [_] ts, nofun, fun hall => absurd (hall e (List.mem_singleton_self e)) he⟩

/-- The reply is Ok if the answer is. -/
theorem answerReply_ok_iff (t : Transaction) (a : Answer) :
    (∃ bytes, answerReply t a = .ok bytes) ↔ ∃ d, a = .ok d := by
  cases a <;> simp [answerReply]

/-- The history shows the transactions a bus has followed. -/
theorem Bus.Follows.history {ts : List Transaction} {b b' : Bus} (h : b.Follows ts b') :
    ∃ es, b'.history = b.history ++ es ∧ EventsFollow ts es := by
  induction h with
  | done b => exact ⟨[], by simp, ⟨List.prefix_rfl, nofun, fun _ => rfl⟩⟩
  | @ok t ts b b' d dev hd _ ih =>
    obtain ⟨es, hes, hfollow⟩ := ih
    refine ⟨⟨dev, t, answerReply t b.nextAnswer⟩ :: es, by rw [hes, Bus.issue_history, List.append_assoc]; rfl, ?_⟩
    exact hfollow.cons (e := ⟨dev, t, _⟩) ((answerReply_ok_iff t _).2 ⟨d, hd⟩)
  | @stop t ts b dev hn =>
    exact ⟨[⟨dev, t, answerReply t b.nextAnswer⟩], rfl,
      EventsFollow.single (e := ⟨dev, t, _⟩) (fun hok => not_exists.2 hn ((answerReply_ok_iff t _).1 hok)) ts⟩

section
variable {i : Instr} {s t : State} {base : Regs} {b : Bus} {ts : List Transaction}

/-- A transaction follows its list, if what comes after its Ok follows the rest and its Err issues nothing. -/
theorem State.transact_follows {dev : BitVec 7} {tr : Transaction} {onErr : State → State} {onOk : Burst → State → State}
    (hs : s.bus = b) (ok : ∀ d s', Bus.Follows ts s'.bus (onOk d s').bus) (err : ∀ s', (onErr s').bus = s'.bus) :
    b.Follows (tr :: ts) (s.transact base dev tr onErr onOk).bus := by
  subst hs
  refine State.transact_induct (P := fun s' => s.bus.Follows (tr :: ts) s'.bus) (fun d h => ?_) (fun h => ?_) (fun h => ?_)
  · exact .ok dev h (ok d { s with bus := s.bus.issue dev tr })
  · rw [err]
    exact .stop dev (by simp [h])
  · exact .stop dev (by simp [h])

/-- A block read follows its list, if what comes after its Ok follows the rest. -/
theorem State.memRead_follows {addr : Byte} {n : Nat} {onOk : Burst → State → State}
    (hs : s.bus = b) (ok : ∀ d s', Bus.Follows ts s'.bus (onOk d s').bus) :
    b.Follows (.memRead addr n :: ts) (s.memRead base addr n onOk).bus :=
  State.transact_follows hs ok fun _ => rfl

/-- A register write follows its list, if what comes after its Ok follows the rest. -/
theorem State.memWrite_follows {addr v : Byte} {onOk : State → State}
    (hs : s.bus = b) (ok : ∀ s', Bus.Follows ts s'.bus (onOk s').bus) :
    b.Follows (.memWrite addr [v] :: ts) (s.memWrite base addr v onOk).bus :=
  State.transact_follows hs (fun _ => ok) fun _ => rfl

/-- The loop of CLEAR_SETTINGS follows the list of its writes. -/
theorem clearSettingsFrom_followsWrites (base : Regs) (ws : List (Byte × Byte)) : ∀ (n : Nat) (s : State),
    s.bus.Follows (writeTransactions ws) (clearSettingsFrom base ws n s).bus := by
  induction ws with
  | nil => exact fun _ s => .done s.bus
  | cons w ws ih => exact fun n s => State.transact_follows rfl (fun _ s' => ih (n + 1) s') fun _ => rfl

/-- A bus command of a bound block follows the list its body follows. -/
theorem busCommand_followsList {body : State → State} (hb : s.regs.bound = true) (h : busCommand s body = .next t)
    (hbody : s.bus.Follows ts (body s.start).bus) : s.bus.Follows ts t.bus := by
  rw [busCommand_bound hb] at h
  cases h
  exact hbody

/-- A bus command of a bound block that reads once. -/
theorem busCommand_memRead_followsList {addr : Byte} {n : Nat} {onOk : Burst → State → State} (hb : s.regs.bound = true)
    (h : busCommand s (fun s1 => s1.memRead s.regs addr n onOk) = .next t) (ok : ∀ d s', (onOk d s').bus = s'.bus) :
    s.bus.Follows [.memRead addr n] t.bus :=
  busCommand_followsList hb h <| State.memRead_follows rfl fun d s' => by rw [ok]; exact .done _

/-- A bus command of a bound block that writes once; the byte written may depend on the registers. -/
theorem busCommand_memWrite_followsList {addr : Byte} {v : State → Byte} {onOk : State → State} (hb : s.regs.bound = true)
    (h : busCommand s (fun s1 => s1.memWrite s.regs addr (v s1) onOk) = .next t) (ok : ∀ s', (onOk s').bus = s'.bus) :
    s.bus.Follows [.memWrite addr [v s.start]] t.bus :=
  busCommand_followsList hb h <| State.memWrite_follows rfl fun s' => by rw [ok]; exact .done _

/-- A bus command of an unbound block leaves the bus alone. -/
theorem busCommand_bus_of_not_bound {body : State → State} (hb : s.regs.bound = false) (h : busCommand s body = .next t) :
    t.bus = s.bus := by
  rw [busCommand_not_bound hb] at h
  cases h
  rfl

/-- A bus command issues nothing while the block is not bound (R94), ill-formed terms included (R92). -/
theorem exec_bus_of_not_bound (hi : isBusCommand i = true) (hb : s.regs.bound = false) (h : exec i s = .next t) :
    t.bus = s.bus := by
  cases i with
  | readId | rdreg | wrreg | powerOn | getPower | getOffsets | getFormat | setFormat | acquire | clearSettings | pollInt =>
    simp only [exec, execReadId, execRdreg, execWrreg, execPowerOn, execGetPower, execGetOffsets, execGetFormat, execSetFormat,
      execAcquire, execClearSettings, execPollInt] at h
    exact busCommand_bus_of_not_bound hb h
  | setOffset | setThresh | getThresh =>
    simp only [exec, execSetOffset, execSetThresh, execGetThresh] at h
    split at h
    · exact busCommand_bus_of_not_bound hb h
    · cases h
      rfl
  | init | pipe | tenc | tdec | decodeInt => cases hi

/-- A command that touches no bus follows the empty list. -/
theorem pureCommand_followsList {f : Regs → Regs} (h : pureCommand s f = .next t) : s.bus.Follows [] t.bus := by
  cases h
  exact .done s.bus

/-- So does ILLEGAL. -/
theorem illegalCommand_followsList (h : illegalCommand s = .next t) : s.bus.Follows [] t.bus := by
  cases h
  exact .done s.bus

/-- The offset registers stand one after another from OFSX on (R89), for the axes up to 2. -/
theorem offsetAddr_of_axis {axis : Byte} {a : Axis} (h : axisOfByte axis = some a) :
    axis.toNat ≤ 2 ∧ offsetAddr a = 30 + axis := by
  unfold axisOfByte at h
  split at h <;> cases h <;> decide

/-- CLEAR_SETTINGS writes zero to every threshold (R171), then the default format. -/
theorem writeTransactions_clearSettings (arg0 : Word) :
    writeTransactions clearSettingsWrites = expectedTransactions arg0 .clearSettings := by
  have hzero : ∀ k, thresholdEncode 0 k = 0 := by intro k; cases k <;> decide
  simp only [writeTransactions, clearSettingsWrites, hzero]
  rfl

/-- Every command follows its list of R77, if it is not a bus command of an unbound block. -/
theorem exec_followsTable (hbound : isBusCommand i = true → s.regs.bound = true) (h : exec i s = .next t) :
    s.bus.Follows (expectedTransactions s.regs.arg0 i) t.bus := by
  cases i with
  | init =>
    cases h
    exact State.transact_follows rfl
      (fun _ _ => State.memRead_follows rfl fun _ _ => State.memRead_follows rfl fun _ s3 => .done s3.bus) fun _ => rfl
  | readId | rdreg | getPower | getOffsets | getFormat | acquire | pollInt =>
    exact busCommand_memRead_followsList (hbound rfl) h fun _ _ => rfl
  | wrreg | setFormat => exact busCommand_memWrite_followsList (v := fun _ => _) (hbound rfl) h fun _ => rfl
  | powerOn =>
    simp only [exec, execPowerOn] at h
    exact busCommand_followsList (hbound rfl) h <| State.memWrite_follows rfl fun _ =>
      State.memRead_follows rfl fun _ s2 => .done s2.bus
  | setOffset axis v =>
    simp only [exec, execSetOffset] at h
    split at h
    case h_1 a ha =>
      obtain ⟨hle, haddr⟩ := offsetAddr_of_axis ha
      rw [expectedTransactions, if_pos hle, ← haddr]
      exact busCommand_memWrite_followsList (v := fun _ => v) (hbound rfl) h fun _ => rfl
    case h_2 ha =>
      rw [expectedTransactions, if_neg (not_axis_of_none ha)]
      exact illegalCommand_followsList h
  | setThresh kind =>
    simp only [exec, execSetThresh] at h
    rw [expectedTransactions]
    split at h
    case h_1 k hk => rw [hk]; exact busCommand_memWrite_followsList (hbound rfl) h fun _ => rfl
    case h_2 hk => rw [hk]; exact illegalCommand_followsList h
  | getThresh kind =>
    simp only [exec, execGetThresh] at h
    rw [expectedTransactions]
    split at h
    case h_1 k hk => rw [hk]; exact busCommand_memRead_followsList (hbound rfl) h fun _ _ => rfl
    case h_2 hk => rw [hk]; exact illegalCommand_followsList h
  | clearSettings =>
    rw [← writeTransactions_clearSettings]
    exact busCommand_followsList (hbound rfl) h (clearSettingsFrom_followsWrites s.regs clearSettingsWrites 0 s.start)
  | pipe | decodeInt => exact pureCommand_followsList h
  | tenc | tdec =>
    simp only [exec, execTenc, execTdec] at h
    split at h
    · exact pureCommand_followsList h
    · exact illegalCommand_followsList h

end

/-- Settles O30: a bus command of an unbound block adds no event, and every other command follows its list. -/
theorem transactionsFollowTheTable : Obligations.TransactionsFollowTheTable := by
  intro i s t h
  by_cases hbound : isBusCommand i = true → s.regs.bound = true
  · obtain ⟨es, hes, hprefix, hok, hall⟩ := (exec_followsTable hbound h).history
    exact ⟨es, hes, hprefix, hok, fun hi hb => absurd (hbound hi) (by simp [hb]), fun _ => hall⟩
  · obtain ⟨hi, hb⟩ := Classical.not_imp.1 hbound
    have hbus := exec_bus_of_not_bound hi (Bool.eq_false_iff.2 hb) h
    exact ⟨[], by simp [hbus], List.nil_prefix, nofun, fun _ _ => rfl, fun hbound' => absurd hbound' hbound⟩

end Sys2Proof.Machine
end

section
/-! SUPPORT. The decoder and the encoder against each other (spec/30_encoding.md R81, R86, R98), the ILLEGAL words (R92) and the match
and mask table (R87), with O1 to O5. -/

namespace Sys2Proof.Machine

section
variable {p : Prop} [Decidable p] {r : Except DecodeError Instr} {i : Instr} {e : DecodeError}

/-- A constraint of the decoder lets a command through. -/
theorem require_ok_iff : (if p then r else .error e) = .ok i ↔ p ∧ r = .ok i := by
  by_cases h : p <;> simp [h]

end

/-! ## The round trips -/

section
variable {w : Word} {i : Instr} {op a b : Byte}

/-- A word decodes if its RSV is 0 and its other fields do (R81, R85). -/
theorem decode_ok_iff :
    decode w = .ok i ↔ fieldRsv w = 0 ∧ decodeFields (fieldOp w) (fieldA w) (fieldB w) = .ok i :=
  require_ok_iff

/-- INIT's selector byte gives its two fields back (R89). -/
theorem decodeInit_encodeInitA (d : Bool) (addr : BitVec 7) : decodeInit (encodeInitA d addr) = .init d addr := by
  rw [decodeInit, encodeInitA_def, encodeInitA_addr]

/-- Fields that decode are those of a well-formed command's word: one case for each row of the opcode map (R86). -/
theorem encode_of_decodeFields (h : decodeFields op a b = .ok i) : i.wellFormed = true ∧ encode i = packWord op a b := by
  unfold decodeFields at h
  split at h
  all_goals simp only [requireA0, requireB0, requireKind, requireAxis, require_ok_iff, Except.ok.injEq, reduceCtorEq] at h
  case h_1 => -- INIT
    obtain ⟨rfl, rfl⟩ := h
    exact ⟨rfl, congrArg (packWord 1 · 0) (encodeInitA_fields a)⟩
  case h_2 | h_6 | h_7 | h_9 | h_11 | h_12 | h_17 | h_18 => -- A and B are 0
    obtain ⟨rfl, rfl, rfl⟩ := h
    exact ⟨rfl, rfl⟩
  case h_3 | h_5 | h_10 | h_19 => -- one field is 0
    obtain ⟨rfl, rfl⟩ := h
    exact ⟨rfl, rfl⟩
  case h_4 => -- WRREG, without a constraint
    subst h
    exact ⟨rfl, rfl⟩
  case h_8 | h_14 => -- A is an axis or a kind
    obtain ⟨hle, rfl⟩ := h
    exact ⟨decide_eq_true hle, rfl⟩
  case h_13 | h_15 | h_16 => -- A is a kind and B is 0
    obtain ⟨hle, rfl, rfl⟩ := h
    exact ⟨decide_eq_true hle, rfl⟩

/-- A word that decodes is the word of the command it decodes to. -/
theorem encode_of_decode (h : decode w = .ok i) : i.wellFormed = true ∧ encode i = w := by
  obtain ⟨hrsv, hfields⟩ := decode_ok_iff.1 h
  obtain ⟨hwf, henc⟩ := encode_of_decodeFields hfields
  exact ⟨hwf, henc.trans (packWord_fields hrsv)⟩

/-- The word of a well-formed command has RSV 0 and its fields back, and they meet the constraints of its row of the opcode map. -/
theorem decode_encode (hi : i.wellFormed = true) : decode (encode i) = .ok i := by
  rw [decode_ok_iff]
  cases i with
  | init d addr => simp [encode, decodeFields, requireB0, decodeInit_encodeInitA]
  | setOffset | tenc | tdec | setThresh | getThresh =>
    have hle := of_decide_eq_true hi
    simp [encode, decodeFields, requireB0, requireKind, requireAxis, hle]
  | _ => simp [encode, decodeFields, requireA0, requireB0]

end

/-- Settles O1: the word is packed from the fields the decoder reads (`decode_encode`). -/
theorem decodeOfEncodeIsTheCommand : Obligations.DecodeOfEncodeIsTheCommand := fun _ hi => decode_encode hi

/-- Settles O2: each row of the opcode map packs the fields it was read from (`encode_of_decode`). -/
theorem encodeOfDecodeIsTheWord : Obligations.EncodeOfDecodeIsTheWord := fun _ _ h => encode_of_decode h

/-! ## The ILLEGAL words -/

section
variable {w : Word} {i : Instr} {op a b : Byte}

/-- Items 1 and 3 to 5 of R92 do not hold of the fields of a word. -/
def LegalFields (op a b : Byte) : Prop :=
  op ∈ assignedOps ∧ (op ∈ opsWithZeroA → a = 0) ∧ (op ∈ opsWithKind → a.toNat ≤ 8) ∧ (op = 0x08 → a.toNat ≤ 2) ∧
    (op ∈ opsWithZeroB → b = 0)

/-- The items of R92 on the fields of a word. -/
theorem illegalWord_eq_false_iff :
    illegalWord w = false ↔ fieldRsv w = 0 ∧ LegalFields (fieldOp w) (fieldA w) (fieldB w) := by
  simp [illegalWord, LegalFields, fieldOp, fieldA, fieldB, fieldRsv, and_assoc, and_comm, and_left_comm]

/-- The opcode map has a command for exactly the legal fields: the constraints of each of its rows (R86) are those of R92. -/
theorem decodeFields_ok_iff : (∃ i, decodeFields op a b = .ok i) ↔ LegalFields op a b := by
  unfold decodeFields
  split
  case h_20 => simp_all [LegalFields, assignedOps] -- no row
  all_goals
    simp [requireA0, requireB0, requireKind, requireAxis, require_ok_iff, LegalFields, assignedOps, opsWithZeroA, opsWithZeroB,
      opsWithKind]

/-- The decoder accepts exactly the words that are not ILLEGAL. -/
theorem exists_decode_ok_iff : (∃ i, decode w = .ok i) ↔ illegalWord w = false := by
  simp only [decode_ok_iff, exists_and_left, decodeFields_ok_iff, illegalWord_eq_false_iff]

/-- The decoder rejects exactly the words of R92. -/
theorem exists_decode_error_iff : (∃ e, decode w = .error e) ↔ illegalWord w = true := by
  rw [← Bool.not_eq_false, ← exists_decode_ok_iff]
  cases decode w <;> simp

end

/-- Settles O4: an ILLEGAL word is one the decoder rejects, and it ends as `raiseIllegal`. -/
theorem illegalWordsChangeOnlyCodeAndAnomaly : Obligations.IllegalWordsChangeOnlyCodeAndAnomaly := by
  refine ⟨fun w => exists_decode_error_iff.symm, fun w s hw => ?_⟩
  obtain ⟨e, he⟩ := exists_decode_error_iff.2 hw
  exact runWord_of_error he s

/-! ## The match and mask table -/

section
variable {w : Word} {i : Instr} {r r₁ r₂ : OpcodeRow}

/-- A mask acts on each field. -/
theorem fields_and (w m : Word) :
    fieldOp (w &&& m) = fieldOp w &&& fieldOp m ∧ fieldA (w &&& m) = fieldA w &&& fieldA m ∧
      fieldB (w &&& m) = fieldB w &&& fieldB m ∧ fieldRsv (w &&& m) = fieldRsv w &&& fieldRsv m :=
  ⟨BitVec.extractLsb'_and .., BitVec.extractLsb'_and .., BitVec.extractLsb'_and .., BitVec.extractLsb'_and ..⟩

/-- Every row compares OP and RSV whole, RSV with 0, and A and B with 0 where R92 has them 0; its constraint on A is that of R92. -/
theorem opcodeRows_follow_illegalWords : ∀ r ∈ opcodeRows,
    (fieldOp r.mask = 0xFF ∧ fieldRsv r.mask = 0xFF ∧ fieldRsv r.pattern = 0) ∧ fieldOp r.pattern ∈ assignedOps ∧
    (fieldOp r.pattern ∈ opsWithZeroA → fieldA r.mask = 0xFF ∧ fieldA r.pattern = 0) ∧
    (fieldOp r.pattern ∈ opsWithZeroB → fieldB r.mask = 0xFF ∧ fieldB r.pattern = 0) ∧
    (fieldOp r.pattern ∈ opsWithKind → r.aMax ≤ 8) ∧ (fieldOp r.pattern = 0x08 → r.aMax ≤ 2) := by
  decide

/-- No byte is lost under a mask of ones. -/
theorem byte_and_ff (a : Byte) : a &&& 0xFF = a := BitVec.and_allOnes

/-- A word that matches a row has the row's OP. -/
theorem fieldOp_of_match (hr : r ∈ opcodeRows) (h : w &&& r.mask = r.pattern) : fieldOp w = fieldOp r.pattern := by
  obtain ⟨⟨hop, -⟩, -⟩ := opcodeRows_follow_illegalWords r hr
  rw [← h, (fields_and w r.mask).1, hop, byte_and_ff]

/-- No two rows match one word: their OPs differ. -/
theorem row_of_match_unique (h₁ : r₁ ∈ opcodeRows) (h₂ : r₂ ∈ opcodeRows) (hm₁ : w &&& r₁.mask = r₁.pattern)
    (hm₂ : w &&& r₂.mask = r₂.pattern) : r₁ = r₂ := by
  have hnodup : (opcodeRows.map fun r => fieldOp r.pattern).Nodup := by decide
  exact List.inj_on_of_nodup_map hnodup h₁ h₂ ((fieldOp_of_match h₁ hm₁).symm.trans (fieldOp_of_match h₂ hm₂))

/-- No two rows have one mnemonic. -/
theorem row_of_mnemonic_unique (h₁ : r₁ ∈ opcodeRows) (h₂ : r₂ ∈ opcodeRows) (hm : r₁.mnemonic = r₂.mnemonic) : r₁ = r₂ := by
  have hnodup : (opcodeRows.map OpcodeRow.mnemonic).Nodup := by decide
  exact List.inj_on_of_nodup_map hnodup h₁ h₂ hm

/-- A word that spells a row's command is not ILLEGAL. -/
theorem not_illegal_of_match (hr : r ∈ opcodeRows) (h : w &&& r.mask = r.pattern) (ha : (fieldA w).toNat ≤ r.aMax) :
    illegalWord w = false := by
  obtain ⟨⟨-, hrsvMask, hrsv⟩, hop, hzeroA, hzeroB, hkind, haxis⟩ := opcodeRows_follow_illegalWords r hr
  obtain ⟨-, hA, hB, hRsv⟩ := fields_and w r.mask
  rw [h] at hA hB hRsv
  rw [illegalWord_eq_false_iff, LegalFields, fieldOp_of_match hr h]
  refine ⟨?_, hop, fun ho => ?_, fun ho => ha.trans (hkind ho), fun ho => ha.trans (haxis ho), fun ho => ?_⟩
  · rw [← hrsv, hRsv, hrsvMask, byte_and_ff]
  · obtain ⟨hmask, hzero⟩ := hzeroA ho
    rw [← hzero, hA, hmask, byte_and_ff]
  · obtain ⟨hmask, hzero⟩ := hzeroB ho
    rw [← hzero, hB, hmask, byte_and_ff]

open Sys2Proof.Laws in
/-- Every well-formed command has a row of the table, which its word spells. -/
theorem exists_row_of_command (i : Instr) : RowOfCommand.Statement i :=
  match i with
  | .init d a => RowOfCommand.init d a
  | .readId => RowOfCommand.readId
  | .rdreg a => RowOfCommand.rdreg a
  | .wrreg a v => RowOfCommand.wrreg a v
  | .powerOn m => RowOfCommand.powerOn m
  | .getPower => RowOfCommand.getPower
  | .getOffsets => RowOfCommand.getOffsets
  | .setOffset axis v => RowOfCommand.setOffset axis v
  | .getFormat => RowOfCommand.getFormat
  | .setFormat v => RowOfCommand.setFormat v
  | .acquire => RowOfCommand.acquire
  | .pipe => RowOfCommand.pipe
  | .tenc k => RowOfCommand.tenc k
  | .tdec k c => RowOfCommand.tdec k c
  | .setThresh k => RowOfCommand.setThresh k
  | .getThresh k => RowOfCommand.getThresh k
  | .clearSettings => RowOfCommand.clearSettings
  | .pollInt => RowOfCommand.pollInt
  | .decodeInt b => RowOfCommand.decodeInt b

/-- A word that decodes spells the row with its command's mnemonic. -/
theorem exists_row_of_decode (h : decode w = .ok i) :
    ∃ r ∈ opcodeRows, r.mnemonic = i.mnemonic ∧ w &&& r.mask = r.pattern ∧ (fieldA w).toNat ≤ r.aMax := by
  obtain ⟨hwf, rfl⟩ := encode_of_decode h
  obtain ⟨r, hr, hmnemonic, hspells⟩ := exists_row_of_command i hwf
  exact ⟨r, hr, hmnemonic, by simpa [OpcodeRow.spells] using hspells⟩

end

/-- Settles O3: a word that spells a row's command decodes, being not ILLEGAL, and spells the row of the command it decodes to; the
two rows match one word, or have one mnemonic, so they are the same. -/
theorem decoderFollowsTheMatchAndMaskTable : Obligations.DecoderFollowsTheMatchAndMaskTable := by
  refine ⟨fun w r hr => ⟨fun ⟨hmatch, ha⟩ => ?_, fun ⟨i, hi, hmnemonic⟩ => ?_⟩, fun w r₁ r₂ h₁ h₂ => row_of_match_unique h₁ h₂⟩
  · obtain ⟨i, hi⟩ := exists_decode_ok_iff.2 (not_illegal_of_match hr hmatch ha)
    obtain ⟨r', hr', hmnemonic, hmatch', -⟩ := exists_row_of_decode hi
    obtain rfl := row_of_match_unique hr' hr hmatch' hmatch
    exact ⟨i, hi, hmnemonic.symm⟩
  · obtain ⟨r', hr', hmnemonic', hmatch, ha⟩ := exists_row_of_decode hi
    obtain rfl := row_of_mnemonic_unique hr' hr (hmnemonic'.trans hmnemonic)
    exact ⟨hmatch, ha⟩

/-- Settles O5: the fields of each word are read off; the ADDR of an INIT with DEF = 1 is 0 in the second. -/
theorem specEncodingExamplesDecode : Obligations.SpecEncodingExamplesDecode := by
  refine ⟨?_, ⟨0, ?_⟩, ?_⟩ <;> decide

end Sys2Proof.Machine
end

section
/-! SUPPORT. The order ILLEGAL, not bound, run (spec/30_encoding.md R93, R94), the ill-formed command terms (R92) and PIPE's bytes (R88,
spec/42_sample_pipeline.md R142), with O8, O21, O45, O56. -/

namespace Sys2Proof.Machine

/-! ## Ill-formed command terms -/

/-- A selector byte above 8 names no kind (R90). -/
theorem kindOfByte_of_not_le {kind : Byte} (h : ¬ kind.toNat ≤ 8) : kindOfByte kind = none := by
  revert kind
  decide

/-- A selector byte above 2 names no axis (R91). -/
theorem axisOfByte_of_not_le {axis : Byte} (h : ¬ axis.toNat ≤ 2) : axisOfByte axis = none := by
  revert axis
  decide

/-- Settles O56: the selector of an ill-formed term names no kind or axis, and every other term is well formed. -/
theorem selectorsOutOfRangeAreIllegal : Obligations.SelectorsOutOfRangeAreIllegal := by
  intro i s hi
  cases i with
  | setOffset =>
    simp only [exec, execSetOffset, axisOfByte_of_not_le (of_decide_eq_false hi)]
    rfl
  | tenc | tdec | setThresh | getThresh =>
    simp only [exec, execTenc, execTdec, execSetThresh, execGetThresh, kindOfByte_of_not_le (of_decide_eq_false hi)]
    rfl
  | _ => cases hi

/-! ## Commands of an unbound block -/

section
variable {i : Instr} {s : State}

/-- A well-formed bus command of an unbound block ends in BUS_ERROR and does nothing else (R94). -/
theorem exec_not_bound (hwf : i.wellFormed = true) (hi : isBusCommand i = true) (hb : s.regs.bound = false) :
    exec i s = .next s.start.raiseBusError := by
  cases i with
  | setOffset axis =>
    simp only [exec, execSetOffset]
    split
    case h_1 => exact busCommand_not_bound hb _
    case h_2 ha => exact absurd (of_decide_eq_true hwf) (not_axis_of_none ha)
  | setThresh | getThresh =>
    simp only [exec, execSetThresh, execGetThresh]
    split
    case h_1 => exact busCommand_not_bound hb _
    case h_2 hk => exact absurd (of_decide_eq_true hwf) (not_kind_of_none hk)
  | readId | rdreg | wrreg | powerOn | getPower | getOffsets | getFormat | setFormat | acquire | clearSettings | pollInt =>
    simp only [exec, execReadId, execRdreg, execWrreg, execPowerOn, execGetPower, execGetOffsets, execGetFormat, execSetFormat,
      execAcquire, execClearSettings, execPollInt]
    exact busCommand_not_bound hb _
  | init | pipe | tenc | tdec | decodeInt => cases hi

/-- A well-formed command that touches no bus ends OK whatever BOUND is (R94). -/
theorem exec_pure_ends_ok (hwf : i.wellFormed = true) (hi : isPureCommand i = true) :
    ∃ t, exec i s = .next t ∧ t.bus = s.bus ∧ t.regs.code = 0 ∧ t.regs.anomaly = false := by
  cases i with
  | pipe | decodeInt => exact ⟨_, rfl, rfl, rfl, rfl⟩
  | tenc | tdec =>
    simp only [exec, execTenc, execTdec]
    split
    case h_1 => exact ⟨_, rfl, rfl, rfl, rfl⟩
    case h_2 hk => exact absurd (of_decide_eq_true hwf) (not_kind_of_none hk)
  | _ => cases hi

end

/-- INIT issues its open whatever BOUND is (R94): it follows its list of R77, which begins with it. -/
theorem exec_init_opens (d : Bool) (a : BitVec 7) (s : State) : ∃ t e es, exec (.init d a) s = .next t ∧
    t.bus.history = s.bus.history ++ e :: es ∧ e.transaction = .busOpen (if d then Config.defaultBusAddr else a) := by
  obtain ⟨t, ht⟩ := exec_next (.init d a) s
  obtain ⟨es, hes, hprefix, -, hall⟩ := (exec_followsTable (i := .init d a) nofun ht).history
  cases es with
  | nil => cases hall nofun
  | cons e es => exact ⟨t, e, es, ht, hes, (List.cons_prefix_cons.1 hprefix).1⟩

/-- Settles O21: a bus command, INIT, and the commands that touch no bus. -/
theorem unboundBusCommandsEndInBusError : Obligations.UnboundBusCommandsEndInBusError :=
  ⟨fun _ _ => exec_not_bound, exec_init_opens, fun _ _ => exec_pure_ends_ok⟩

/-! ## The order of the decisions on a written word -/

/-- Settles O8: a write of CMD stores the word and executes it (O7); an ILLEGAL word is one the decoder rejects (O4), and a word that
decodes is a well-formed command's (O2). -/
theorem decodeOrderIsIllegalThenNotBoundThenRun : Obligations.DecodeOrderIsIllegalThenNotBoundThenRun := by
  intro s w rest hidle hp
  obtain ⟨hrun, hillegal, -⟩ := cmdWriteStoresThenExecutes
  refine ⟨fun hw => ?_, fun i hw hi hb => ?_, fun i hw _ => hrun s w rest i hidle hp hw⟩
  · obtain ⟨e, he⟩ := exists_decode_error_iff.2 hw
    exact hillegal s w rest e hidle hp he
  · rw [hrun s w rest i hidle hp hw]
    exact exec_not_bound (encode_of_decode hw).1 hi hb

/-! ## PIPE -/

/-- Four bytes of a word, low byte first. -/
theorem word_bytes_toNat (w : Word) :
    w.toNat = (w.extractLsb' 0 8).toNat + 2 ^ 8 * (w.extractLsb' 8 8).toNat + 2 ^ 16 * (w.extractLsb' 16 8).toNat +
      2 ^ 24 * (w.extractLsb' 24 8).toNat := by
  have := w.isLt
  simp only [BitVec.extractLsb'_toNat, Nat.shiftRight_eq_div_pow]
  omega

/-- Settles O45: the burst is `pipeBytes`, whose bytes make up ARG0 and the low half of ARG1. -/
theorem pipeRunsThePipelineOnTheArguments : Obligations.PipeRunsThePipelineOnTheArguments := by
  intro s
  refine ⟨pipeBytes s.regs.arg0 s.regs.arg1, word_bytes_toNat _, ?_, rfl⟩
  have hbytes := word_bytes_toNat s.regs.arg1
  simp only [pipeBytes]
  omega

end Sys2Proof.Machine
end

section
/-! SUPPORT. Assembler lines (spec/30_encoding.md R96, R97) and O6: what each operand is, what a line with such operands assembles to,
and that no line emits an ILLEGAL word. -/

namespace Sys2Proof.Machine

/-! ## Command lines (R96) -/

/-- The host accesses of a line that makes no write before its command: `HWRITE CMD, encode(i)` (R96). -/
def commandWrite (i : Option Instr) : Option (List HostInput) := i.map fun i => [hostWriteOf .cmd (encode i)]

/-- A number operand with a bound (R96): `byteOperand`, `kindOperand` and `axisOperand` are of this form. -/
def boundedOperand (bound n : Nat) : Option Byte := if n ≤ bound then some (BitVec.ofNat 8 n) else none

/-- An operand in its range is taken. -/
theorem boundedOperand_of_le {bound n : Nat} (h : n ≤ bound) : boundedOperand bound n = some (BitVec.ofNat 8 n) := if_pos h

/-- An operand out of range is an assembly error. -/
theorem boundedOperand_of_not_le {bound n : Nat} (h : ¬ n ≤ bound) : boundedOperand bound n = none := if_neg h

/-- A byte operand in its range is the number. -/
theorem ofNat_byte_toNat {n : Nat} (h : n ≤ 255) : (BitVec.ofNat 8 n).toNat = n := by
  rw [BitVec.toNat_ofNat]
  omega

/-- A bounded operand is within its bound. -/
theorem boundedOperand_le {bound n : Nat} {a : Byte} (hbound : bound ≤ 255) (h : boundedOperand bound n = some a) :
    a.toNat ≤ bound := by
  obtain ⟨hn, ha⟩ := Option.ite_none_right_eq_some.1 h
  cases ha
  rwa [ofNat_byte_toNat (hn.trans hbound)]

/-- A command word from the numbers of its fields (R81). -/
theorem packWord_eq_ofNat (op a b : Byte) :
    packWord op a b = BitVec.ofNat 32 (op.toNat * 2 ^ 24 + a.toNat * 2 ^ 16 + b.toNat * 2 ^ 8) := by
  rw [← packWord_toNat, BitVec.ofNat_toNat, BitVec.setWidth_eq]

/-- A command word with nothing in field B. -/
theorem packWord_fieldA_eq (op a : Byte) : packWord op a 0 = BitVec.ofNat 32 (op.toNat * 2 ^ 24 + a.toNat * 2 ^ 16) := by
  simp [packWord_eq_ofNat]

/-- A command word with nothing in field A. -/
theorem packWord_fieldB_eq (op b : Byte) : packWord op 0 b = BitVec.ofNat 32 (op.toNat * 2 ^ 24 + b.toNat * 2 ^ 8) := by
  simp [packWord_eq_ofNat]

section
variable {bound m n base scale : Nat}

/-- A command with one bounded operand, in a field of weight `scale`. -/
theorem commandWrite_operand {c : Byte → Instr} (hbound : bound ≤ 255)
    (hc : ∀ x, encode (c x) = BitVec.ofNat 32 (base + x.toNat * scale)) :
    commandWrite ((boundedOperand bound n).map c) =
      if n ≤ bound then some [.write .word 0x00 (BitVec.ofNat 32 (base + n * scale))] else none := by
  by_cases h : n ≤ bound
  · simp [boundedOperand_of_le h, h, commandWrite, hc, ofNat_byte_toNat (h.trans hbound), hostWriteOf, hostRegOffset]
  · simp [boundedOperand_of_not_le h, h, commandWrite]

/-- A command with a bounded operand in field A and a byte operand in field B. -/
theorem commandWrite_operands {c : Byte → Byte → Instr} (hbound : bound ≤ 255)
    (hc : ∀ x y, encode (c x y) = BitVec.ofNat 32 (base + x.toNat * 2 ^ 16 + y.toNat * 2 ^ 8)) :
    commandWrite ((boundedOperand bound n).bind fun x => (boundedOperand 255 m).map (c x)) =
      if n ≤ bound ∧ m ≤ 255 then some [.write .word 0x00 (BitVec.ofNat 32 (base + n * 2 ^ 16 + m * 2 ^ 8))] else none := by
  by_cases hn : n ≤ bound
  · by_cases hm : m ≤ 255
    · simp [boundedOperand_of_le hn, boundedOperand_of_le hm, hn, hm, commandWrite, hc, ofNat_byte_toNat (hn.trans hbound),
        ofNat_byte_toNat hm, hostWriteOf, hostRegOffset]
    · simp [boundedOperand_of_not_le hm, hm, commandWrite]
  · simp [boundedOperand_of_not_le hn, hn, commandWrite]

end

/-- INIT with a bus address, at most 127. -/
theorem assembleLine_init_address (n : Nat) : assembleLine (.init (.address n)) =
    if n ≤ 127 then some [.write .word 0x00 (BitVec.ofNat 32 (0x01000000 + n * 2 ^ 16))] else none := by
  have hline : assembleLine (.init (.address n)) =
      commandWrite (if n ≤ 127 then some (.init false (BitVec.ofNat 7 n)) else none) := rfl
  rw [hline]
  split
  case isTrue h =>
    have haddr : (encodeInitA false (BitVec.ofNat 7 n)).toNat = n := by
      rw [encodeInitA_toNat, BitVec.toNat_ofNat, Bool.toNat_false]
      omega
    have hword := packWord_fieldA_eq 0x01 (encodeInitA false (BitVec.ofNat 7 n))
    rw [haddr] at hword
    exact congrArg (fun w => some [hostWriteOf .cmd w]) hword
  case isFalse => rfl

/-- A kind's name is its number (R90). -/
theorem kindOperand_name {k : Kind} {n : Nat} (h : kindOrder[n]? = some k) :
    kindOperand (.name k) = kindOperand (.number n) := by
  obtain ⟨hn, rfl⟩ := List.getElem?_eq_some_iff.1 h
  change n < 9 at hn
  interval_cases n <;> rfl

/-! ## Pseudo-instructions (R97) -/

/-- ENC and SETTH write the literal's binary32 to ARG0 before their command. -/
theorem decimalBits_then_commandWrite (f : Decimal) (i : Option Instr) :
    (((decimalBits f).map fun w => [hostWriteOf .arg0 w]).bind fun before => i.map fun i => before ++ [hostWriteOf .cmd (encode i)]) =
      if f.den = 0 then none else (commandWrite i).map fun xs =>
        .write .word 0x04 (BitVec.ofNat 32 (binary32.ofRatio f.neg f.num f.den)) :: xs := by
  by_cases h : f.den = 0
  · simp [decimalBits, h]
  · simp [decimalBits, h, commandWrite, hostWriteOf, hostRegOffset, Function.comp_def]

/-- The host accesses of PIPEB and PIPES, given their six bytes. -/
def pipeWrites (b : Option Burst) : Option (List HostInput) :=
  b.map fun b => pipeArguments b ++ [hostWriteOf .cmd (encode .pipe)]

/-- The six bytes of PIPES. -/
def sampleBurst (x y z : Int) : Option Burst :=
  (sampleOperand x).bind fun x => (sampleOperand y).bind fun y => (sampleOperand z).map fun z => sampleBytes x y z

/-- A line whose six bytes go to the arguments before its PIPE. -/
theorem pipeArguments_then_pipe (b : Option Burst) :
    ((b.map pipeArguments).bind fun before => (some Instr.pipe).map fun i => before ++ [hostWriteOf .cmd (encode i)]) =
      pipeWrites b := by
  cases b <;> rfl

/-- PIPEB, given its six bytes. -/
theorem assembleLine_pipeb_eq (b0 b1 b2 b3 b4 b5 : Nat) :
    assembleLine (.pipeb b0 b1 b2 b3 b4 b5) = pipeWrites (burstOperand b0 b1 b2 b3 b4 b5) :=
  pipeArguments_then_pipe _

/-- The writes of PIPES before its PIPE are of its six bytes. -/
theorem asmPrelude_pipes (x y z : Int) : asmPrelude (.pipes x y z) = (sampleBurst x y z).map pipeArguments := by
  simp only [asmPrelude, sampleBurst, Option.map_bind, Option.map_map, Function.comp_def]

/-- PIPES, given its six bytes. -/
theorem assembleLine_pipes_eq (x y z : Int) : assembleLine (.pipes x y z) = pipeWrites (sampleBurst x y z) := by
  rw [← pipeArguments_then_pipe, ← asmPrelude_pipes]
  rfl

/-- The six byte operands of PIPEB, each at most 255. -/
theorem burstOperand_eq (b0 b1 b2 b3 b4 b5 : Nat) : burstOperand b0 b1 b2 b3 b4 b5 =
    if b0 ≤ 255 ∧ b1 ≤ 255 ∧ b2 ≤ 255 ∧ b3 ≤ 255 ∧ b4 ≤ 255 ∧ b5 ≤ 255 then
      some ⟨BitVec.ofNat 8 b0, BitVec.ofNat 8 b1, BitVec.ofNat 8 b2, BitVec.ofNat 8 b3, BitVec.ofNat 8 b4, BitVec.ofNat 8 b5⟩
    else none := by
  have hbind {α : Type} (n : Nat) (g : Byte → Option α) :
      (byteOperand n).bind g = if n ≤ 255 then g (BitVec.ofNat 8 n) else none := by
    by_cases h : n ≤ 255 <;> simp [byteOperand, h]
  simp only [burstOperand, Option.map_eq_bind, hbind, ite_and, Function.comp_apply]

/-- The argument writes of six bytes, as numbers. -/
theorem pipeArguments_eq (b : Burst) : pipeArguments b =
    [.write .word 0x04 (BitVec.ofNat 32 (b.b0.toNat + b.b1.toNat * 2 ^ 8 + b.b2.toNat * 2 ^ 16 + b.b3.toNat * 2 ^ 24)),
      .write .word 0x08 (BitVec.ofNat 32 (b.b4.toNat + b.b5.toNat * 2 ^ 8))] := by
  have harg0 : b.b3 ++ b.b2 ++ b.b1 ++ b.b0 =
      BitVec.ofNat 32 (b.b0.toNat + b.b1.toNat * 2 ^ 8 + b.b2.toNat * 2 ^ 16 + b.b3.toNat * 2 ^ 24) := by
    apply BitVec.eq_of_toNat_eq
    simp only [toNat_append_add, BitVec.toNat_ofNat]
    omega
  have harg1 : 0#16 ++ b.b5 ++ b.b4 = BitVec.ofNat 32 (b.b4.toNat + b.b5.toNat * 2 ^ 8) := by
    apply BitVec.eq_of_toNat_eq
    simp only [toNat_append_add, BitVec.toNat_ofNat]
    omega
  rw [pipeArguments, harg0, harg1]
  rfl

/-- PIPEB: its six bytes, then PIPE. -/
theorem assembleLine_pipeb (b0 b1 b2 b3 b4 b5 : Nat) : assembleLine (.pipeb b0 b1 b2 b3 b4 b5) =
    if b0 ≤ 255 ∧ b1 ≤ 255 ∧ b2 ≤ 255 ∧ b3 ≤ 255 ∧ b4 ≤ 255 ∧ b5 ≤ 255 then
      some [.write .word 0x04 (BitVec.ofNat 32 (b0 + b1 * 2 ^ 8 + b2 * 2 ^ 16 + b3 * 2 ^ 24)),
        .write .word 0x08 (BitVec.ofNat 32 (b4 + b5 * 2 ^ 8)), .write .word 0x00 (BitVec.ofNat 32 0x11000000)]
    else none := by
  rw [assembleLine_pipeb_eq, burstOperand_eq]
  split
  case isTrue h =>
    obtain ⟨h0, h1, h2, h3, h4, h5⟩ := h
    rw [pipeWrites, Option.map_some, pipeArguments_eq]
    simp only [ofNat_byte_toNat, h0, h1, h2, h3, h4, h5]
    rfl
  case isFalse => rfl

/-- The low and high byte of a sample operand, as numbers. -/
theorem ofInt_bytes (v : Int) :
    (BitVec.ofInt 16 v).extractLsb' 0 8 = BitVec.ofNat 8 (v % 65536 % 256).toNat ∧
      (BitVec.ofInt 16 v).extractLsb' 8 8 = BitVec.ofNat 8 (v % 65536 / 256).toNat := by
  constructor
  all_goals
    apply BitVec.eq_of_toNat_eq
    rw [BitVec.extractLsb'_toNat, BitVec.toNat_ofInt, BitVec.toNat_ofNat, Nat.shiftRight_eq_div_pow]
    omega

/-- The low and high bytes of three samples are byte operands. -/
theorem burstOperand_samples (x y z : Int) :
    burstOperand (x % 65536 % 256).toNat (x % 65536 / 256).toNat (y % 65536 % 256).toNat (y % 65536 / 256).toNat
      (z % 65536 % 256).toNat (z % 65536 / 256).toNat =
      some (sampleBytes (BitVec.ofInt 16 x) (BitVec.ofInt 16 y) (BitVec.ofInt 16 z)) := by
  obtain ⟨hxlo, hxhi⟩ := ofInt_bytes x
  obtain ⟨hylo, hyhi⟩ := ofInt_bytes y
  obtain ⟨hzlo, hzhi⟩ := ofInt_bytes z
  rw [burstOperand_eq, if_pos (by omega), sampleBytes, hxlo, hxhi, hylo, hyhi, hzlo, hzhi]

/-- The six bytes of PIPES, its samples each in range. -/
theorem sampleBurst_eq (x y z : Int) : sampleBurst x y z =
    if (-32768 ≤ x ∧ x ≤ 32767) ∧ (-32768 ≤ y ∧ y ≤ 32767) ∧ (-32768 ≤ z ∧ z ≤ 32767) then
      some (sampleBytes (BitVec.ofInt 16 x) (BitVec.ofInt 16 y) (BitVec.ofInt 16 z))
    else none := by
  have hbind {α : Type} (v : Int) (g : BitVec 16 → Option α) :
      (sampleOperand v).bind g = if -32768 ≤ v ∧ v ≤ 32767 then g (BitVec.ofInt 16 v) else none := by
    by_cases h : -32768 ≤ v ∧ v ≤ 32767 <;> simp [sampleOperand, h]
  simp only [sampleBurst, Option.map_eq_bind, hbind, ite_and, Function.comp_apply]

/-! ## What a line writes -/

/-- A kind operand is at most 8. -/
theorem kindOperand_le {k : KindOperand} {a : Byte} (h : kindOperand k = some a) : a.toNat ≤ 8 := by
  cases k with
  | name k =>
    cases h
    cases k <;> decide
  | number n => exact boundedOperand_le (by decide) h

/-- An axis operand is at most 2. -/
theorem axisOperand_le {axis : AxisOperand} {a : Byte} (h : axisOperand axis = some a) : a.toNat ≤ 2 := by
  cases axis with
  | name axis =>
    cases h
    cases axis <;> decide
  | number n => exact boundedOperand_le (by decide) h

/-- The command of a line is well formed: its kind or axis operand is in range (R96). -/
theorem asmCommand_wellFormed {l : AsmLine} {i : Instr} (h : asmCommand l = some i) : i.wellFormed = true := by
  cases l with
  | hwrite | hread => cases h
  | readId | getPower | getOffsets | getFormat | acquire | pipe | clearSettings | pollInt | pipeb | pipes =>
    cases h
    rfl
  | init a =>
    cases a with
    | default => cases h; rfl
    | address n =>
      obtain ⟨-, ha⟩ := Option.ite_none_right_eq_some.1 h
      cases ha
      rfl
  | rdreg | powerOn | setFormat | decodeInt | wrpower =>
    obtain ⟨b, -, rfl⟩ := Option.map_eq_some_iff.1 h
    rfl
  | wrreg =>
    obtain ⟨a, -, h⟩ := Option.bind_eq_some_iff.1 h
    obtain ⟨b, -, rfl⟩ := Option.map_eq_some_iff.1 h
    rfl
  | setOffset =>
    obtain ⟨a, ha, h⟩ := Option.bind_eq_some_iff.1 h
    obtain ⟨b, -, rfl⟩ := Option.map_eq_some_iff.1 h
    exact decide_eq_true (axisOperand_le ha)
  | tenc | setThresh | getThresh | enc | setth =>
    obtain ⟨k, hk, rfl⟩ := Option.map_eq_some_iff.1 h
    exact decide_eq_true (kindOperand_le hk)
  | tdec =>
    obtain ⟨k, hk, h⟩ := Option.bind_eq_some_iff.1 h
    obtain ⟨b, -, rfl⟩ := Option.map_eq_some_iff.1 h
    exact decide_eq_true (kindOperand_le hk)

/-- A write of ARG0 or ARG1. -/
def IsArgumentWrite (x : HostInput) : Prop := ∃ v, x = .write .word 0x04 v ∨ x = .write .word 0x08 v

/-- The six bytes go to the arguments. -/
theorem pipeArguments_isArgumentWrite (b : Burst) : ∀ x ∈ pipeArguments b, IsArgumentWrite x := by
  rw [pipeArguments_eq]
  simp [IsArgumentWrite]

/-- A line that is no directive writes arguments alone before its command. -/
theorem asmPrelude_isArgumentWrite {l : AsmLine} {before : List HostInput} (hl : l.isDirective = false)
    (h : asmPrelude l = some before) : ∀ x ∈ before, IsArgumentWrite x := by
  cases l with
  | hwrite | hread => cases hl
  | enc | setth =>
    obtain ⟨w, -, rfl⟩ := Option.map_eq_some_iff.1 h
    simp [IsArgumentWrite, hostWriteOf, hostRegOffset]
  | pipeb =>
    obtain ⟨b, -, rfl⟩ := Option.map_eq_some_iff.1 h
    exact pipeArguments_isArgumentWrite b
  | pipes =>
    rw [asmPrelude_pipes] at h
    obtain ⟨b, -, rfl⟩ := Option.map_eq_some_iff.1 h
    exact pipeArguments_isArgumentWrite b
  | _ =>
    cases h
    exact nofun

/-- A line that is no directive makes the writes before its command, and then the command's. -/
theorem assembleLine_eq_some {l : AsmLine} {xs : List HostInput} (hl : l.isDirective = false) (h : assembleLine l = some xs) :
    ∃ before i, asmPrelude l = some before ∧ asmCommand l = some i ∧ xs = before ++ [hostWriteOf .cmd (encode i)] := by
  rw [assembleLine, hl, if_neg Bool.false_ne_true] at h
  obtain ⟨before, hbefore, h⟩ := Option.bind_eq_some_iff.1 h
  obtain ⟨i, hi, rfl⟩ := Option.map_eq_some_iff.1 h
  exact ⟨before, i, hbefore, hi, rfl⟩

/-- Settles O6: the lines without an operand, with one and with two, then the pseudo-instructions; the command of a line is well
formed, so its word decodes and is not ILLEGAL. -/
theorem assemblerLinesExpandAsListed : Obligations.AssemblerLinesExpandAsListed := by
  refine ⟨⟨rfl, rfl, rfl, rfl, rfl, rfl, rfl, rfl, rfl⟩, assembleLine_init_address,
    fun _ => commandWrite_operand (c := .rdreg) le_rfl (packWord_fieldA_eq 0x03),
    fun _ _ => commandWrite_operands (c := .wrreg) le_rfl (packWord_eq_ofNat 0x04),
    fun _ => ⟨commandWrite_operand (c := .powerOn) le_rfl (packWord_fieldB_eq 0x05), rfl,
      commandWrite_operand (c := .setFormat) le_rfl (packWord_fieldB_eq 0x0A),
      commandWrite_operand (c := .decodeInt) le_rfl (packWord_fieldB_eq 0x31)⟩,
    fun _ _ => commandWrite_operands (c := .setOffset) (by decide) (packWord_eq_ofNat 0x08),
    fun _ => ⟨rfl, rfl, rfl⟩,
    fun _ => ⟨commandWrite_operand (c := .tenc) (by decide) (packWord_fieldA_eq 0x20),
      commandWrite_operand (c := .setThresh) (by decide) (packWord_fieldA_eq 0x22),
      commandWrite_operand (c := .getThresh) (by decide) (packWord_fieldA_eq 0x23)⟩,
    fun _ _ => commandWrite_operands (c := .tdec) (by decide) (packWord_eq_ofNat 0x21),
    fun k n c h => ?_,
    fun k f => ⟨decimalBits_then_commandWrite f ((kindOperand k).map .tenc),
      decimalBits_then_commandWrite f ((kindOperand k).map .setThresh)⟩,
    by decide, assembleLine_pipeb, fun x y z => ?_, fun _ _ => ⟨rfl, rfl⟩, fun l xs hl h => ?_⟩
  · simp only [assembleLine, AsmLine.isDirective, asmPrelude, asmCommand, kindOperand_name h]
    exact ⟨rfl, rfl, rfl, rfl⟩
  · rw [assembleLine_pipes_eq, sampleBurst_eq, assembleLine_pipeb_eq, burstOperand_samples, apply_ite pipeWrites]
    rfl
  · obtain ⟨before, i, hbefore, hi, rfl⟩ := assembleLine_eq_some hl h
    have hdecode := decode_encode (asmCommand_wellFormed hi)
    exact ⟨before, i, rfl, hi, hdecode, exists_decode_ok_iff.1 ⟨i, hdecode⟩, asmPrelude_isArgumentWrite hl hbefore⟩

end Sys2Proof.Machine
end

section
/-! SUPPORT. No retry and no recovery (spec/41_register_access.md R101), and O29: the transactions of a command answer Ok up to the
last, and an Err of the last ends the command with CODE 1. One lemma for each shared operation. -/

namespace Sys2Proof.Machine

/-- `b.OksTo b'` says that the bus `b` becomes `b'` by transactions that all answer Ok: so far a command goes on. -/
def Bus.OksTo (b b' : Bus) : Prop :=
  ∃ es, b'.history = b.history ++ es ∧ ∀ e ∈ es, ∃ bytes, e.reply = .ok bytes

/-- What is so of the state `t` a command leaves whose transactions began at the bus `b`: only the last one can be other than Ok, and
with an Err there CODE is BUS_ERROR. -/
def State.EndsByFirstErr (b : Bus) (t : State) : Prop :=
  ∃ es, t.bus.history = b.history ++ es ∧ (∀ e ∈ es.dropLast, ∃ bytes, e.reply = .ok bytes) ∧
    (∀ e, es.getLast? = some e → e.reply = .err → t.regs.code = 1)

/-- The reply is Err only if the answer is. -/
theorem answer_err_of_reply {t : Transaction} {a : Answer} (h : answerReply t a = .err) : a = .err := by
  cases a with
  | err => rfl
  | ok d => cases h
  | never => cases h

section
variable {b b₁ : Bus} {s t : State} {base : Regs} {dev : BitVec 7} {tr : Transaction}

/-- No transaction at all. -/
theorem Bus.OksTo.refl (b : Bus) : b.OksTo b := ⟨[], (List.append_nil _).symm, nofun⟩

/-- One transaction more that answers Ok. -/
theorem Bus.OksTo.issue {d : Burst} (h : b.OksTo b₁) (hd : b₁.nextAnswer = .ok d) (dev : BitVec 7) (tr : Transaction) :
    b.OksTo (b₁.issue dev tr) := by
  obtain ⟨es, hes, hok⟩ := h
  refine ⟨es ++ [⟨dev, tr, answerReply tr b₁.nextAnswer⟩], by rw [Bus.issue_history, hes, List.append_assoc], ?_⟩
  simpa [or_imp, forall_and, answerReply_ok_iff, hd] using hok

/-- A command may end, with any CODE, where all its transactions answered Ok. -/
theorem State.endsByFirstErr_of_oksTo (h : b.OksTo t.bus) : t.EndsByFirstErr b := by
  obtain ⟨es, hes, hok⟩ := h
  refine ⟨es, hes, fun e he => hok e (List.mem_of_mem_dropLast he), fun e he herr => ?_⟩
  obtain ⟨bytes, hbytes⟩ := hok e (List.mem_of_getLast? he)
  rw [hbytes] at herr
  cases herr

/-- A command may end after one transaction more, with CODE 1 if that answers Err. -/
theorem Bus.OksTo.endsByFirstErr_of_issue (h : b.OksTo b₁) (ht : t.bus = b₁.issue dev tr)
    (hcode : b₁.nextAnswer = .err → t.regs.code = 1) : t.EndsByFirstErr b := by
  obtain ⟨es, hes, hok⟩ := h
  refine ⟨es ++ [⟨dev, tr, answerReply tr b₁.nextAnswer⟩], by rw [ht, Bus.issue_history, hes, List.append_assoc], ?_, ?_⟩
  · rwa [List.dropLast_concat]
  · intro e he herr
    rw [List.getLast?_concat] at he
    cases he
    exact hcode (answer_err_of_reply herr)

/-- A transaction, if what follows its Ok ends by the first Err, and its Err ends the command with CODE 1 and no transaction more. -/
theorem State.transact_endsByFirstErr {onErr : State → State} {onOk : Burst → State → State} (hs : b.OksTo s.bus)
    (ok : ∀ d s', b.OksTo s'.bus → (onOk d s').EndsByFirstErr b)
    (err : ∀ s', (onErr s').bus = s'.bus ∧ (onErr s').regs.code = 1) :
    (s.transact base dev tr onErr onOk).EndsByFirstErr b :=
  State.transact_induct (fun d hd => ok d _ (hs.issue hd dev tr))
    (fun _ => hs.endsByFirstErr_of_issue (err _).1 fun _ => (err _).2)
    (fun hn => hs.endsByFirstErr_of_issue rfl fun he => nomatch hn.symm.trans he)

/-- A block read, if what follows its Ok ends by the first Err. -/
theorem State.memRead_endsByFirstErr {addr : Byte} {n : Nat} {onOk : Burst → State → State} (hs : b.OksTo s.bus)
    (ok : ∀ d s', b.OksTo s'.bus → (onOk d s').EndsByFirstErr b) : (s.memRead base addr n onOk).EndsByFirstErr b :=
  State.transact_endsByFirstErr hs ok fun _ => ⟨rfl, rfl⟩

/-- A register write, if what follows its Ok ends by the first Err. -/
theorem State.memWrite_endsByFirstErr {addr v : Byte} {onOk : State → State} (hs : b.OksTo s.bus)
    (ok : ∀ s', b.OksTo s'.bus → (onOk s').EndsByFirstErr b) : (s.memWrite base addr v onOk).EndsByFirstErr b :=
  State.transact_endsByFirstErr hs (fun _ => ok) fun _ => ⟨rfl, rfl⟩

/-- The loop of CLEAR_SETTINGS. -/
theorem clearSettingsFrom_endsByFirstErr (ws : List (Byte × Byte)) (n : Nat) (hs : b.OksTo s.bus) :
    (clearSettingsFrom base ws n s).EndsByFirstErr b :=
  clearSettingsFrom_induct (Q := fun s => b.OksTo s.bus)
    (issue := fun _ _ _ _ h hd => h.issue hd _ _)
    (done := fun _ _ h => State.endsByFirstErr_of_oksTo h)
    (err := fun _ _ _ _ h _ => h.endsByFirstErr_of_issue rfl fun _ => rfl)
    (never := fun _ _ _ h hn => h.endsByFirstErr_of_issue rfl fun he => nomatch hn.symm.trans he) ws n s hs

/-- A bus command, if its body ends by the first Err; of an unbound block it issues nothing. -/
theorem busCommand_endsByFirstErr {body : State → State} (h : busCommand s body = .next t)
    (hbody : (body s.start).EndsByFirstErr s.bus) : t.EndsByFirstErr s.bus :=
  busCommand_induct h (fun _ => hbody) fun _ => State.endsByFirstErr_of_oksTo (.refl s.bus)

/-- A bus command that reads once and then completes. -/
theorem busCommand_memRead_endsByFirstErr {addr : Byte} {n : Nat} {onOk : Burst → State → State}
    (h : busCommand s (fun s1 => s1.memRead s.regs addr n onOk) = .next t) (ok : ∀ d s', (onOk d s').bus = s'.bus) :
    t.EndsByFirstErr s.bus :=
  busCommand_endsByFirstErr h <| State.memRead_endsByFirstErr (.refl s.bus) fun d s' hs' =>
    State.endsByFirstErr_of_oksTo ((ok d s').symm ▸ hs')

/-- A bus command that writes once and then completes; the byte written may depend on the registers. -/
theorem busCommand_memWrite_endsByFirstErr {addr : Byte} {v : State → Byte} {onOk : State → State}
    (h : busCommand s (fun s1 => s1.memWrite s.regs addr (v s1) onOk) = .next t) (ok : ∀ s', (onOk s').bus = s'.bus) :
    t.EndsByFirstErr s.bus :=
  busCommand_endsByFirstErr h <| State.memWrite_endsByFirstErr (.refl s.bus) fun s' hs' =>
    State.endsByFirstErr_of_oksTo ((ok s').symm ▸ hs')

/-- A command that touches no bus. -/
theorem pureCommand_endsByFirstErr {f : Regs → Regs} (h : pureCommand s f = .next t) : t.EndsByFirstErr s.bus := by
  cases h
  exact State.endsByFirstErr_of_oksTo (.refl s.bus)

/-- An ILLEGAL command. -/
theorem illegalCommand_endsByFirstErr (h : illegalCommand s = .next t) : t.EndsByFirstErr s.bus := by
  cases h
  exact State.endsByFirstErr_of_oksTo (.refl s.bus)

/-- Every command ends by the first Err. -/
theorem exec_endsByFirstErr {i : Instr} (h : exec i s = .next t) : t.EndsByFirstErr s.bus := by
  cases i with
  | init =>
    cases h
    exact State.transact_endsByFirstErr (.refl s.bus)
      (fun _ _ h1 => State.memRead_endsByFirstErr h1 fun _ _ h2 => State.memRead_endsByFirstErr h2 fun _ _ h3 =>
        State.endsByFirstErr_of_oksTo h3) fun _ => ⟨rfl, rfl⟩
  | readId | rdreg | getPower | getOffsets | getFormat | acquire | pollInt =>
    exact busCommand_memRead_endsByFirstErr h fun _ _ => rfl
  | wrreg | setFormat => exact busCommand_memWrite_endsByFirstErr (v := fun _ => _) h fun _ => rfl
  | powerOn =>
    simp only [exec, execPowerOn] at h
    exact busCommand_endsByFirstErr h <| State.memWrite_endsByFirstErr (.refl s.bus) fun _ h1 =>
      State.memRead_endsByFirstErr h1 fun _ _ h2 => State.endsByFirstErr_of_oksTo h2
  | setOffset | setThresh =>
    simp only [exec, execSetOffset, execSetThresh] at h
    split at h
    · exact busCommand_memWrite_endsByFirstErr h fun _ => rfl
    · exact illegalCommand_endsByFirstErr h
  | getThresh =>
    simp only [exec, execGetThresh] at h
    split at h
    · exact busCommand_memRead_endsByFirstErr h fun _ _ => rfl
    · exact illegalCommand_endsByFirstErr h
  | clearSettings =>
    exact busCommand_endsByFirstErr h (clearSettingsFrom_endsByFirstErr clearSettingsWrites 0 (.refl s.bus))
  | pipe | decodeInt => exact pureCommand_endsByFirstErr h
  | tenc | tdec =>
    simp only [exec, execTenc, execTdec] at h
    split at h
    · exact pureCommand_endsByFirstErr h
    · exact illegalCommand_endsByFirstErr h

end

/-- Settles O29: every command ends by the first Err (`exec_endsByFirstErr`). -/
theorem firstErrEndsTheCommand : Obligations.FirstErrEndsTheCommand := fun _ _ _ => exec_endsByFirstErr

end Sys2Proof.Machine
end

section
/-! SUPPORT. The bus commands of one transaction (spec/41_register_access.md R100, R102 to R107), with O35 to O39: what a bound block
does on the Ok and on the Err of the read or write. -/

namespace Sys2Proof.Machine

section
variable {s : State} {addr : Byte} (hb : s.regs.bound = true)
include hb

/-- A one-read command goes on with the bytes of an Ok. -/
theorem busCommand_memRead_ok {n : Nat} {onOk : Burst → State → State} {d : Burst} (hd : s.bus.nextAnswer = .ok d) :
    busCommand s (fun s1 => s1.memRead s.regs addr n onOk) =
      .next (onOk d { s.start with bus := s.bus.issue s.regs.busAddr (.memRead addr n) }) :=
  (busCommand_bound hb _).trans (congrArg _ (State.transact_ok hd))

/-- A one-read command ends with CODE 1 on an Err. -/
theorem busCommand_memRead_err {n : Nat} {onOk : Burst → State → State} (he : s.bus.nextAnswer = .err) :
    busCommand s (fun s1 => s1.memRead s.regs addr n onOk) =
      .next (State.raiseBusError { s.start with bus := s.bus.issue s.regs.busAddr (.memRead addr n) }) :=
  (busCommand_bound hb _).trans (congrArg _ (State.transact_err he))

/-- A one-write command goes on after an Ok. -/
theorem busCommand_memWrite_ok {v : State → Byte} {onOk : State → State} {d : Burst} (hd : s.bus.nextAnswer = .ok d) :
    busCommand s (fun s1 => s1.memWrite s.regs addr (v s1) onOk) =
      .next (onOk { s.start with bus := s.bus.issue s.regs.busAddr (.memWrite addr [v s.start]) }) :=
  (busCommand_bound hb _).trans (congrArg _ (State.transact_ok hd))

/-- A one-write command ends with CODE 1 on an Err. -/
theorem busCommand_memWrite_err {v : State → Byte} {onOk : State → State} (he : s.bus.nextAnswer = .err) :
    busCommand s (fun s1 => s1.memWrite s.regs addr (v s1) onOk) =
      .next (State.raiseBusError { s.start with bus := s.bus.issue s.regs.busAddr (.memWrite addr [v s.start]) }) :=
  (busCommand_bound hb _).trans (congrArg _ (State.transact_err he))

end

/-- Settles O35: RDREG is a one-read command. -/
theorem rdregReturnsTheByteRead : Obligations.RdregReturnsTheByteRead :=
  fun _ _ hb => ⟨fun _ hd => busCommand_memRead_ok hb hd, fun he => busCommand_memRead_err hb he⟩

/-- Settles O36: WRREG is a one-write command. -/
theorem wrregWritesOneByte : Obligations.WrregWritesOneByte :=
  fun _ v _ hb => ⟨fun _ hd => busCommand_memWrite_ok (v := fun _ => v) hb hd,
    fun he => busCommand_memWrite_err (v := fun _ => v) hb he⟩

/-- The word GET_OFFSETS packs three bytes into (R104). -/
theorem three_bytes_toNat (x y z : Byte) :
    (0#8 ++ z ++ y ++ x).toNat = x.toNat + 2 ^ 8 * y.toNat + 2 ^ 16 * z.toNat := by
  simp only [toNat_append_add, BitVec.toNat_ofNat]
  omega

/-- Settles O37: GET_OFFSETS is a one-read command, and RESULT packs the three bytes. -/
theorem getOffsetsReadsThreeBytesAtOnce : Obligations.GetOffsetsReadsThreeBytesAtOnce :=
  fun _ hb => ⟨fun d hd => ⟨_, three_bytes_toNat d.b0 d.b1 d.b2, busCommand_memRead_ok hb hd⟩,
    fun he => busCommand_memRead_err hb he⟩

/-- A selector byte up to 2 is an axis' (R91). -/
theorem axisIndex_of_le {axis : Byte} (h : axis.toNat ≤ 2) : ∃ a, axis = axisIndex a := by
  obtain ⟨a, ha⟩ := Option.ne_none_iff_exists'.1 fun hnone => not_axis_of_none hnone h
  refine ⟨a, ?_⟩
  unfold axisOfByte at ha
  split at ha <;> cases ha <;> rfl

/-- Settles O38: for each axis SET_OFFSET is a one-write command at OFSX + axis. -/
theorem setOffsetWritesItsAxisAlone : Obligations.SetOffsetWritesItsAxisAlone := by
  intro axis v s haxis hb
  obtain ⟨a, rfl⟩ := axisIndex_of_le haxis
  cases a with
  | x | y | z =>
    exact ⟨fun d hd => busCommand_memWrite_ok (v := fun _ => v) hb hd,
      fun he => busCommand_memWrite_err (v := fun _ => v) hb he⟩

/-- Settles O39: GET_FORMAT is a one-read command and SET_FORMAT a one-write command, both at DATA_FORMAT. -/
theorem formatRegisterIsReadAndWrittenUninterpreted : Obligations.FormatRegisterIsReadAndWrittenUninterpreted :=
  fun v _ hb => ⟨fun _ hd => ⟨busCommand_memRead_ok hb hd, busCommand_memWrite_ok (v := fun _ => v) hb hd⟩,
    fun he => ⟨busCommand_memRead_err hb he, busCommand_memWrite_err (v := fun _ => v) hb he⟩⟩

end Sys2Proof.Machine
end

section
/-! SUPPORT. The decoding of a sample (spec/42_sample_pipeline.md R131 to R134, R141), with O40, O41 and O44. -/

namespace Sys2Proof.Machine

/-- PAIR16 puts the high byte above the low one. -/
theorem pair16_toNat (lo hi : Byte) : (pair16 lo hi).toNat = hi.toNat * 2 ^ 8 + lo.toNat := toNat_append_add hi lo

/-- Settles O40: the pattern is negative exactly when the high byte's top bit is set. -/
theorem pair16IsTwosComplement : Obligations.Pair16IsTwosComplement := by
  intro lo hi
  have hlo := lo.isLt
  have hhi := hi.isLt
  rw [BitVec.toInt_eq_toNat_cond, pair16_toNat]
  split <;> split <;> omega

/-- The two bytes of a lane, low byte first (R134). -/
theorem pair16_bytes (lo hi : Byte) : (pair16 lo hi).extractLsb' 0 8 = lo ∧ (pair16 lo hi).extractLsb' 8 8 = hi := by
  have hlo := lo.isLt
  have hhi := hi.isLt
  constructor <;> apply BitVec.eq_of_toNat_eq <;>
    simp only [BitVec.extractLsb'_toNat, pair16_toNat, Nat.shiftRight_eq_div_pow] <;> omega

/-- A lane is the pair of its two bytes (R134). -/
theorem pair16_extract (v : BitVec 16) : pair16 (v.extractLsb' 0 8) (v.extractLsb' 8 8) = v := by
  apply BitVec.eq_of_toNat_eq
  have := v.isLt
  simp only [pair16_toNat, BitVec.extractLsb'_toNat, Nat.shiftRight_eq_div_pow]
  omega

/-- The inverse of DECODE6 (R134): each lane's low byte, then its high byte. -/
def encode6 (v : BitVec 16 × BitVec 16 × BitVec 16) : Burst :=
  ⟨v.1.extractLsb' 0 8, v.1.extractLsb' 8 8, v.2.1.extractLsb' 0 8, v.2.1.extractLsb' 8 8, v.2.2.extractLsb' 0 8,
    v.2.2.extractLsb' 8 8⟩

/-- Encoding the samples of a burst gives it back. -/
theorem encode6_decode6 (b : Burst) : encode6 (decode6 b) = b := by
  simp [encode6, decode6, pair16_bytes]

/-- Decoding the burst of three samples gives them back. -/
theorem decode6_encode6 (v : BitVec 16 × BitVec 16 × BitVec 16) : decode6 (encode6 v) = v := by
  simp [encode6, decode6, pair16_extract]

/-- Settles O41: `encode6` is the inverse on both sides. -/
theorem decode6IsABijectionByLanes : Obligations.Decode6IsABijectionByLanes :=
  ⟨Function.bijective_iff_has_inverse.2 ⟨encode6, encode6_decode6, decode6_encode6⟩, fun _ => rfl,
    fun b => (encode6_decode6 b).symm⟩

/-- Settles O44: ACQUIRE is a one-read command, and its Ok runs the pipeline on the burst. -/
theorem acquireReplacesTheSampleWholesale : Obligations.AcquireReplacesTheSampleWholesale :=
  fun _ hb => ⟨fun _ hd => busCommand_memRead_ok hb hd, fun he => busCommand_memRead_err hb he⟩

end Sys2Proof.Machine
end

section
/-! SUPPORT. ATAN2 (spec/42_sample_pipeline.md R136, R139): its value for each class of arguments, and that it depends only on the
direction of a pair, with O43. -/

namespace Sys2Proof.Machine

/-! ## binary64 patterns -/

/-- The value of a pattern by its sign bit, exponent field and fraction (R11). -/
theorem f64Value_eq (a : F64) : f64Value a =
    if a.toNat / 2 ^ 52 % 2 ^ 11 = 2047 then if a.toNat % 2 ^ 52 = 0 then .inf a.msb else .nan
    else if a.toNat / 2 ^ 52 % 2 ^ 11 = 0 then .finite a.msb (a.toNat % 2 ^ 52) (-1074)
    else .finite a.msb (2 ^ 52 + a.toNat % 2 ^ 52) (-1074 + (a.toNat / 2 ^ 52 % 2 ^ 11 - 1 : Nat)) := by
  have hmsb : a.toNat.testBit (binary64.fracBits + binary64.expBits) = a.msb := (BitVec.msb_eq_getLsbD_last a).symm
  have hmin : binary64.minExp = -1074 := by decide
  simp only [f64Value, FpFormat.unpack, hmsb, hmin]
  rfl

/-- A pattern is a NaN, or its value has its sign bit. -/
theorem f64Value_cases (a : F64) :
    f64Value a = .nan ∨ f64Value a = .inf a.msb ∨ ∃ sig exp, f64Value a = .finite a.msb sig exp := by
  rw [f64Value_eq]
  split
  · split
    · exact .inr (.inl rfl)
    · exact .inl rfl
  · split
    · exact .inr (.inr ⟨_, _, rfl⟩)
    · exact .inr (.inr ⟨_, _, rfl⟩)

/-- The sign of a finite value is the sign bit. -/
theorem msb_of_f64Value_finite {a : F64} {neg : Bool} {sig : Nat} {exp : Int} (h : f64Value a = .finite neg sig exp) :
    a.msb = neg := by
  obtain hnan | hinf | ⟨sig', exp', hfin⟩ := f64Value_cases a
  · rw [hnan] at h; cases h
  · rw [hinf] at h; cases h
  · rw [hfin] at h; cases h; rfl

/-- A finite value is no NaN. -/
theorem ne_nan_of_f64Value_finite {a : F64} {neg : Bool} {sig : Nat} {exp : Int} (h : f64Value a = .finite neg sig exp) :
    f64Value a ≠ .nan := by
  rw [h]
  exact FpValue.noConfusion

/-- Only the two zeros have the significand 0. -/
theorem eq_zero_of_f64Value {a : F64} {neg : Bool} {exp : Int} (h : f64Value a = .finite neg 0 exp) :
    a = 0 ∨ a = 0x8000000000000000#64 := by
  have hlt := a.isLt
  rw [f64Value_eq] at h
  have hmag : a.toNat / 2 ^ 52 % 2 ^ 11 = 0 ∧ a.toNat % 2 ^ 52 = 0 := by
    split at h
    · split at h <;> cases h
    · rename_i hfield
      split at h
      · rename_i hzero
        injection h with _ hfrac
        exact ⟨hzero, hfrac⟩
      · injection h with _ hsig
        omega
  obtain h0 | h1 : a.toNat = 0 ∨ a.toNat = 2 ^ 63 := by omega
  · exact .inl (BitVec.eq_of_toNat_eq h0)
  · exact .inr (BitVec.eq_of_toNat_eq h1)

/-- The value of +0. -/
theorem f64Value_zero : f64Value 0 = .finite false 0 (-1074) := by decide

/-- The value of −0. -/
theorem f64Value_neg_zero : f64Value 0x8000000000000000#64 = .finite true 0 (-1074) := by decide

/-- A nonzero finite value is neither zero's. -/
theorem ne_zero_of_f64Value {a : F64} {neg : Bool} {sig : Nat} {exp : Int} (h : f64Value a = .finite neg sig exp)
    (hsig : sig ≠ 0) : a ≠ 0 ∧ a ≠ 0x8000000000000000#64 := by
  constructor
  · rintro rfl
    rw [f64Value_zero] at h
    cases h
    exact hsig rfl
  · rintro rfl
    rw [f64Value_neg_zero] at h
    cases h
    exact hsig rfl

@[simp] theorem f64Neg_f64Neg (a : F64) : f64Neg (f64Neg a) = a := by
  rw [f64Neg, f64Neg, BitVec.xor_assoc, BitVec.xor_self, BitVec.xor_zero]

@[simp] theorem f64Neg_msb (a : F64) : (f64Neg a).msb = !a.msb := by
  rw [f64Neg, BitVec.msb_xor]
  exact Bool.xor_true _

/-- Flipping the sign is its own inverse. -/
theorem f64Neg_eq_iff (a b : F64) : f64Neg a = b ↔ a = f64Neg b :=
  ⟨fun h => by rw [← h, f64Neg_f64Neg], fun h => by rw [h, f64Neg_f64Neg]⟩

/-- Flipping the sign keeps the bits below it. -/
theorem f64Neg_toNat_mod (a : F64) : (f64Neg a).toNat % 2 ^ 63 = a.toNat % 2 ^ 63 := by
  rw [f64Neg, BitVec.toNat_xor, Nat.xor_mod_two_pow]
  exact Nat.xor_zero _

/-- A value with the other sign. -/
def FpValue.negate : FpValue → FpValue
  | .nan => .nan
  | .inf neg => .inf (!neg)
  | .finite neg sig exp => .finite (!neg) sig exp

/-- `f64_neg` negates the value. -/
theorem f64Value_f64Neg (a : F64) : f64Value (f64Neg a) = (f64Value a).negate := by
  have hmod := f64Neg_toNat_mod a
  have hfield : (f64Neg a).toNat / 2 ^ 52 % 2 ^ 11 = a.toNat / 2 ^ 52 % 2 ^ 11 := by omega
  have hfrac : (f64Neg a).toNat % 2 ^ 52 = a.toNat % 2 ^ 52 := by omega
  rw [f64Value_eq, f64Value_eq, hfield, hfrac, f64Neg_msb]
  split
  · split <;> rfl
  · split <;> rfl

/-- Flipping the sign keeps the magnitude of a finite value. -/
theorem f64Value_f64Neg_finite {a : F64} {neg : Bool} {sig : Nat} {exp : Int} (h : f64Value a = .finite neg sig exp) :
    f64Value (f64Neg a) = .finite (!neg) sig exp := by
  rw [f64Value_f64Neg, h, FpValue.negate]

/-- Flipping the sign makes no NaN. -/
theorem f64Value_f64Neg_ne_nan {a : F64} (h : f64Value a ≠ .nan) : f64Value (f64Neg a) ≠ .nan := by
  rw [f64Value_f64Neg]
  intro hneg
  cases ha : f64Value a with
  | nan => exact h ha
  | inf | finite => rw [ha] at hneg; cases hneg

/-! ## The value for each class of arguments (R136) -/

/-- P1 for y = +0 and x without a sign. -/
theorem atan2_zero_of_not_msb {x : F64} (hx : x.msb = false) (hnan : f64Value x ≠ .nan) : atan2 0 x = 0 := by
  rw [atan2, atan2With, if_pos rfl]
  obtain hn | hinf | ⟨sig, exp, hfin⟩ := f64Value_cases x
  · exact absurd hn hnan
  · rw [hinf, hx]; rfl
  · rw [hfin, hx]; simp

/-- P1 for y = +0 and x < 0. -/
theorem atan2_zero_of_msb {x : F64} (hx : x.msb = true) (h0 : x ≠ 0x8000000000000000#64) (hnan : f64Value x ≠ .nan) :
    atan2 0 x = pi64 := by
  rw [atan2, atan2With, if_pos rfl]
  obtain hn | hinf | ⟨sig, exp, hfin⟩ := f64Value_cases x
  · exact absurd hn hnan
  · rw [hinf, hx]; rfl
  · have hsig : sig ≠ 0 := by
      rintro rfl
      obtain rfl | h := eq_zero_of_f64Value hfin
      · cases hx
      · exact h0 h
    rw [hfin, hx]; simp [hsig]

/-- For a y with sign bit 0 that is not +0. -/
theorem atan2_of_not_msb {y : F64} (hy : y.msb = false) (h0 : y ≠ 0) (x : F64) :
    atan2 y x = atan2Upper Config.atan2TolUlp Config.atan2Free (Config.atan2Unformed y x) y x := by
  have hne : y ≠ 0x8000000000000000#64 := by
    rintro rfl
    cases hy
  rw [atan2, atan2With, if_neg h0, if_neg hne, if_neg (by simp [hy])]

/-- P2 for a y with sign bit 0 that is not +0: with the other sign ATAN2 is defined as the negation. -/
theorem atan2_f64Neg_of_not_msb {y : F64} (hy : y.msb = false) (h0 : y ≠ 0) (x : F64) :
    atan2 (f64Neg y) x = f64Neg (atan2 y x) := by
  have hmsb : (f64Neg y).msb = true := by simp [hy]
  have hne0 : f64Neg y ≠ 0 := by
    intro h
    rw [h] at hmsb
    cases hmsb
  have hne : f64Neg y ≠ 0x8000000000000000#64 := fun h => h0 ((f64Neg_eq_iff _ _).1 h)
  rw [atan2_of_not_msb hy h0, atan2, atan2With, if_neg hne0, if_neg hne, if_pos hmsb, f64Neg_f64Neg]

/-- P2: ATAN2 is odd in y, but for the zeros. -/
theorem atan2_f64Neg {y : F64} (h0 : y ≠ 0) (hne : y ≠ 0x8000000000000000#64) (x : F64) :
    atan2 (f64Neg y) x = f64Neg (atan2 y x) := by
  cases hy : y.msb with
  | false => exact atan2_f64Neg_of_not_msb hy h0 x
  | true =>
    have h := atan2_f64Neg_of_not_msb (y := f64Neg y) (by simp [hy]) (fun h => hne ((f64Neg_eq_iff _ _).1 h)) x
    rw [f64Neg_f64Neg] at h
    rw [h, f64Neg_f64Neg]

/-- P1 for x = +0 and y > 0. -/
theorem atan2_of_zero {y : F64} (hy : y.msb = false) (h0 : y ≠ 0) (hnan : f64Value y ≠ .nan) : atan2 y 0 = halfPi64 := by
  rw [atan2_of_not_msb hy h0, atan2Upper, f64Value_zero]
  obtain hn | hinf | ⟨sig, exp, hfin⟩ := f64Value_cases y
  · exact absurd hn hnan
  · rw [hinf]; rfl
  · rw [hfin]; rfl

/-- P1 for x = +0 and y < 0, by P2. -/
theorem atan2_of_zero_of_msb {y : F64} (hy : y.msb = true) (hne : y ≠ 0x8000000000000000#64) (hnan : f64Value y ≠ .nan) :
    atan2 y 0 = f64Neg halfPi64 := by
  have h0 : f64Neg y ≠ 0 := fun h => hne ((f64Neg_eq_iff _ _).1 h)
  have hmsb : (f64Neg y).msb = false := by simp [hy]
  rw [← atan2_of_zero hmsb h0 (f64Value_f64Neg_ne_nan hnan), ← atan2_f64Neg_of_not_msb hmsb h0, f64Neg_f64Neg]

/-- The value for finite y > 0 and x ≠ 0 is taken from the direction. -/
theorem atan2_of_finite {y x : F64} {sy sx : Nat} {ey ex : Int} {negX : Bool} (hy : f64Value y = .finite false sy ey)
    (hx : f64Value x = .finite negX sx ex) (hsy : sy ≠ 0) (hsx : sx ≠ 0) :
    atan2 y x = atan2OfDirection Config.atan2TolUlp Config.atan2Free (atan2Direction sy ey sx ex).1
      (atan2Direction sy ey sx ex).2 negX := by
  obtain ⟨hy0, -⟩ := ne_zero_of_f64Value hy hsy
  obtain ⟨hx0, -⟩ := ne_zero_of_f64Value hx hsx
  rw [atan2_of_not_msb (msb_of_f64Value_finite hy) hy0, atan2Upper, hy, hx]
  exact (if_neg hx0).trans (if_neg hsx)

/-- P3 as the model tests it: the value of a direction is admitted or the reference's. -/
theorem atan2OfDirection_admitted (tol : Nat) (free : Bool → Nat → Nat → F64) (num den : Nat) (negX : Bool) :
    atan2Admits tol num den negX (atan2OfDirection tol free num den negX) = true ∨
      atan2OfDirection tol free num den negX = atan2ReferenceOf num den negX := by
  rw [atan2OfDirection]
  split
  · exact .inl ‹_›
  · exact .inr rfl

/-! ## The direction of a pair (R139) -/

/-- A binary significand and exponent at a common finer exponent. -/
theorem shiftLeft_mul_two_zpow (s : Nat) {e e' : Int} (h : e' ≤ e) :
    ((s <<< (e - e').toNat : ℕ) : ℚ) * 2 ^ e' = s * 2 ^ e := by
  rw [Nat.shiftLeft_eq, Nat.cast_mul, Nat.cast_pow, Nat.cast_ofNat, mul_assoc, ← zpow_natCast, ← zpow_add₀ two_ne_zero]
  congr 2
  omega

/-- A direction is the ratio of the magnitudes of y and x. -/
theorem atan2Direction_ratio (sy : Nat) (ey : Int) (sx : Nat) (ex : Int) :
    ((atan2Direction sy ey sx ex).1 : ℚ) / (atan2Direction sy ey sx ex).2 = (sy * 2 ^ ey) / (sx * 2 ^ ex) := by
  rw [← shiftLeft_mul_two_zpow sy (min_le_left ey ex), ← shiftLeft_mul_two_zpow sx (min_le_right ey ex),
    mul_div_mul_right _ _ (by positivity)]
  exact Nat.cast_div_div_div_cancel_right (Nat.gcd_dvd_right _ _) (Nat.gcd_dvd_left _ _)

section
variable (sy : Nat) (ey : Int) {sx : Nat} (hsx : sx ≠ 0) (ex : Int)
include hsx

/-- A direction is in lowest terms, with a denominator that is not 0. -/
theorem atan2Direction_lowest : Nat.Coprime (atan2Direction sy ey sx ex).1 (atan2Direction sy ey sx ex).2 ∧
    0 < (atan2Direction sy ey sx ex).2 := by
  have hx : 0 < sx <<< (ex - min ey ex).toNat := by
    rw [Nat.shiftLeft_eq]
    exact Nat.mul_pos (Nat.pos_of_ne_zero hsx) (Nat.two_pow_pos _)
  exact ⟨Nat.coprime_div_gcd_div_gcd (Nat.gcd_pos_of_pos_right _ hx), Nat.div_gcd_pos_of_pos_right _ hx⟩

/-- Pairs of one ratio have one direction. -/
theorem atan2Direction_eq_of_ratio (sy' : Nat) (ey' : Int) {sx' : Nat} (hsx' : sx' ≠ 0) (ex' : Int)
    (h : (sy' * 2 ^ ey' : ℚ) * (sx * 2 ^ ex) = (sy * 2 ^ ey) * (sx' * 2 ^ ex')) :
    atan2Direction sy' ey' sx' ex' = atan2Direction sy ey sx ex := by
  obtain ⟨hcop, hpos⟩ := atan2Direction_lowest sy ey hsx ex
  obtain ⟨hcop', hpos'⟩ := atan2Direction_lowest sy' ey' hsx' ex'
  have hratio : ((atan2Direction sy' ey' sx' ex').1 : ℚ) / (atan2Direction sy' ey' sx' ex').2 =
      (atan2Direction sy ey sx ex).1 / (atan2Direction sy ey sx ex).2 := by
    rw [atan2Direction_ratio, atan2Direction_ratio, div_eq_div_iff (by positivity) (by positivity)]
    exact h
  obtain ⟨hnum, hden⟩ := Rat.div_int_inj (a := (atan2Direction sy' ey' sx' ex').1) (c := (atan2Direction sy ey sx ex).1)
    (Int.natCast_pos.2 hpos') (Int.natCast_pos.2 hpos) hcop' hcop (by simpa only [Int.cast_natCast] using hratio)
  exact Prod.ext (Int.natCast_inj.1 hnum) (Int.natCast_inj.1 hden)

end

/-- The magnitude of a finite value. -/
theorem fpRat_finite (neg : Bool) (sig : Nat) (exp : Int) :
    fpRat (.finite neg sig exp) = (if neg then -1 else 1) * (sig * 2 ^ exp) := by
  rw [fpRat, mul_assoc]

section
variable {y x y' x' : F64} {negX : Bool} {sy sx sy' sx' : Nat} {ey ex ey' ex' : Int}
  (hx : f64Value x = .finite negX sx ex) (hx' : f64Value x' = .finite negX sx' ex')
  (hsy : sy ≠ 0) (hsx : sx ≠ 0) (hsy' : sy' ≠ 0) (hsx' : sx' ≠ 0)
  (h : (sy' * 2 ^ ey' : ℚ) * (sx * 2 ^ ex) = (sy * 2 ^ ey) * (sx' * 2 ^ ex'))
include hx hx' hsy hsx hsy' hsx' h

/-- For y > 0 ATAN2 is the same on pairs of one direction. -/
theorem atan2_eq_of_positive (hy : f64Value y = .finite false sy ey) (hy' : f64Value y' = .finite false sy' ey') :
    atan2 y' x' = atan2 y x := by
  rw [atan2_of_finite hy' hx' hsy' hsx', atan2_of_finite hy hx hsy hsx,
    atan2Direction_eq_of_ratio sy ey hsx ex sy' ey' hsx' ex' h]

/-- ATAN2 is the same on pairs of one direction: for y < 0 by P2. -/
theorem atan2_eq_of_magnitudes {negY : Bool} (hy : f64Value y = .finite negY sy ey) (hy' : f64Value y' = .finite negY sy' ey') :
    atan2 y' x' = atan2 y x := by
  cases negY with
  | false => exact atan2_eq_of_positive hx hx' hsy hsx hsy' hsx' h hy hy'
  | true =>
    obtain ⟨hy0, hyn⟩ := ne_zero_of_f64Value hy hsy
    obtain ⟨hy0', hyn'⟩ := ne_zero_of_f64Value hy' hsy'
    have hneg := atan2_eq_of_positive hx hx' hsy hsx hsy' hsx' h (f64Value_f64Neg_finite hy) (f64Value_f64Neg_finite hy')
    rw [atan2_f64Neg hy0 hyn, atan2_f64Neg hy0' hyn'] at hneg
    rw [← f64Neg_f64Neg (atan2 y' x'), hneg, f64Neg_f64Neg]

end

/-- ATAN2 depends only on the signs and the ratio of its finite nonzero arguments (R139). -/
theorem atan2_eq_of_ratio {y x y' x' : F64} {negY negX : Bool} {sy sx sy' sx' : Nat} {ey ex ey' ex' : Int}
    (hy : f64Value y = .finite negY sy ey) (hx : f64Value x = .finite negX sx ex)
    (hy' : f64Value y' = .finite negY sy' ey') (hx' : f64Value x' = .finite negX sx' ex')
    (hsy : sy ≠ 0) (hsx : sx ≠ 0) (hsy' : sy' ≠ 0) (hsx' : sx' ≠ 0)
    (h : fpRat (f64Value y') * fpRat (f64Value x) = fpRat (f64Value y) * fpRat (f64Value x')) :
    atan2 y' x' = atan2 y x := by
  refine atan2_eq_of_magnitudes hx hx' hsy hsx hsy' hsx' ?_ hy hy'
  rw [hy, hx, hy', hx', fpRat_finite, fpRat_finite, fpRat_finite, fpRat_finite] at h
  cases negY <;> cases negX <;> simpa using h

/-- Settles O43: the lemmas above, one for each property. -/
theorem atan2HasItsProperties : Obligations.Atan2HasItsProperties := by
  refine ⟨fun _ => atan2_zero_of_not_msb, fun _ => atan2_zero_of_msb, fun _ => atan2_of_zero, fun _ => atan2_of_zero_of_msb,
    fun _ x h0 hne => atan2_f64Neg h0 hne x, ?_,
    fun _ _ _ _ _ _ _ _ _ _ _ _ _ _ => atan2_eq_of_ratio⟩
  intro y x sy sx ey ex negX hy hx hsy hsx
  obtain ⟨hcop, hpos⟩ := atan2Direction_lowest sy ey hsx ex
  have hratio := atan2Direction_ratio sy ey sx ex
  rw [div_eq_div_iff (by positivity) (by positivity)] at hratio
  refine ⟨by linarith, hcop, ?_⟩
  rw [atan2_of_finite hy hx hsy hsx]
  exact atan2OfDirection_admitted _ _ _ _ _

end Sys2Proof.Machine
end

section
/-! SUPPORT. ORIENT (spec/42_sample_pipeline.md R135 to R139) and O42: a sample scaled by a power of two scales the arguments of
ATAN2 exactly, the rounded square root included, and so keeps their direction. -/

namespace Sys2Proof.Machine

/-! ## The square root of four times an integer -/

/-- Rounding off the bits below `n + 1` leading ones leaves a full significand, or the power of two above. -/
theorem roundShift_full {sig n : Nat} (h : n < Nat.log2 sig) :
    2 ^ n ≤ roundShift sig (Nat.log2 sig - n) ∧ roundShift sig (Nat.log2 sig - n) ≤ 2 ^ (n + 1) := by
  have hsig : sig ≠ 0 := by
    rintro rfl
    simp at h
  obtain ⟨hlo, hhi⟩ := roundShift_bounds sig (Nat.log2 sig - n)
  rw [Nat.shiftRight_eq_div_pow] at hlo hhi
  have hge : 2 ^ n ≤ sig / 2 ^ (Nat.log2 sig - n) := by
    rw [Nat.le_div_iff_mul_le (Nat.two_pow_pos _), ← pow_add, Nat.add_sub_cancel' h.le]
    exact Nat.log2_self_le hsig
  have hlt : sig / 2 ^ (Nat.log2 sig - n) < 2 ^ (n + 1) := by
    rw [Nat.div_lt_iff_lt_mul (Nat.two_pow_pos _), ← pow_add, show n + 1 + (Nat.log2 sig - n) = Nat.log2 sig + 1 by omega]
    exact Nat.lt_log2_self
  omega

/-- Packing more bits than a significand holds, at `q` steps above the finest exponent: the exponent field and the rounded bits. -/
theorem FpFormat.pack_full {f : FpFormat} (neg : Bool) {sig q : Nat} {exp : Int} (hlog : f.fracBits < Nat.log2 sig)
    (hq : exp + (Nat.log2 sig : Int) - f.fracBits = f.minExp + q)
    (hroom : (q + 3) * 2 ^ f.fracBits ≤ f.maxField * 2 ^ f.fracBits) :
    f.pack neg sig exp = f.signBit neg + (q * 2 ^ f.fracBits + roundShift sig (Nat.log2 sig - f.fracBits)) := by
  have hsig : sig ≠ 0 := by
    rintro rfl
    simp at hlog
  have hfin : q * 2 ^ f.fracBits + roundShift sig (Nat.log2 sig - f.fracBits) < f.maxField * 2 ^ f.fracBits := by
    have hp := Nat.two_pow_pos f.fracBits
    obtain ⟨-, hmhigh⟩ := roundShift_full hlog
    rw [pow_succ] at hmhigh
    linarith
  simp only [FpFormat.pack, if_neg hsig, max_eq_left (by omega : f.minExp ≤ exp + (Nat.log2 sig : Int) - f.fracBits)]
  rw [hq, if_neg (by omega : ¬ f.minExp + (q : Int) ≤ exp), show (f.minExp + (q : Int) - f.minExp).toNat = q by omega,
    show (f.minExp + (q : Int) - exp).toNat = Nat.log2 sig - f.fracBits by omega, if_neg (not_le.2 hfin)]

/-- Packing commutes with powers of two: in the range of the full significands the exponent alone follows. -/
theorem FpFormat.unpack_pack_scaled (f : FpFormat) (neg : Bool) {sig : Nat} (hlog : f.fracBits < Nat.log2 sig) :
    ∃ (m : Nat) (c : Int), m ≠ 0 ∧ ∀ exp : Int, f.minExp ≤ exp + (Nat.log2 sig : Int) - f.fracBits →
      exp + (Nat.log2 sig : Int) - f.fracBits - f.minExp + 3 ≤ f.maxField →
      f.unpack (f.pack neg sig exp) = .finite neg m (exp + c) := by
  have hp := Nat.two_pow_pos f.fracBits
  obtain ⟨hmlow, hmhigh⟩ := roundShift_full hlog
  have hsteps : ∀ exp : Int, f.minExp ≤ exp + (Nat.log2 sig : Int) - f.fracBits →
      exp + (Nat.log2 sig : Int) - f.fracBits - f.minExp + 3 ≤ f.maxField → ∃ q : Nat,
        exp + (Nat.log2 sig : Int) - f.fracBits = f.minExp + q ∧
        (q + 3) * 2 ^ f.fracBits ≤ f.maxField * 2 ^ f.fracBits := fun exp hlow hhigh =>
    ⟨(exp + (Nat.log2 sig : Int) - f.fracBits - f.minExp).toNat, by omega, Nat.mul_le_mul_right _ (by omega)⟩
  obtain hlt | hcarry := hmhigh.lt_or_eq
  · refine ⟨roundShift sig (Nat.log2 sig - f.fracBits), (Nat.log2 sig : Int) - f.fracBits, by omega, fun exp hlow hhigh => ?_⟩
    obtain ⟨q, hq, hroom⟩ := hsteps exp hlow hhigh
    rw [FpFormat.pack_full neg hlog hq hroom,
      FpFormat.unpack_finite neg hlt (.inr hmlow) (by rw [pow_succ] at hlt; linarith), ← hq, add_sub_assoc]
  · -- the rounding carries into the next binade
    refine ⟨2 ^ f.fracBits, (Nat.log2 sig : Int) - f.fracBits + 1, hp.ne', fun exp hlow hhigh => ?_⟩
    obtain ⟨q, hq, hroom⟩ := hsteps exp hlow hhigh
    have hnext : q * 2 ^ f.fracBits + 2 ^ (f.fracBits + 1) = (q + 1) * 2 ^ f.fracBits + 2 ^ f.fracBits := by ring
    rw [FpFormat.pack_full neg hlog hq hroom, hcarry, hnext,
      FpFormat.unpack_finite neg (by rw [pow_succ]; omega) (.inr le_rfl) (by linarith)]
    congr 1
    push_cast
    omega

/-- The sticky root of an integer of `n` bits has at most one bit more. -/
theorem isqrtSticky_lt {n m : Nat} (h : m < 2 ^ n) : isqrtSticky m < 2 ^ (n + 1) := by
  have hroot : isqrt m ≤ m := by
    rw [isqrt_eq_sqrt]
    exact Nat.sqrt_le_self m
  rw [isqrtSticky, pow_succ]
  split <;> omega

/-- What the square root of a positive value packs. -/
theorem FpFormat.sqrt_positive (f : FpFormat) {sig : Nat} (hsig : sig ≠ 0) (exp : Int) :
    f.sqrt (.finite false sig exp) =
      f.pack false (isqrtSticky ((if exp % 2 = 1 then 2 * sig else sig) <<< (2 * f.fracBits + 6)))
        (exp / 2 - (f.fracBits + 3 : Nat) - 1) := by
  have hhalf : (if exp % 2 = 1 then exp - 1 else exp) / 2 = exp / 2 := by split <;> omega
  simp only [FpFormat.sqrt, if_neg hsig, hhalf]
  rfl

/-- The square root halves a change of the exponent by two. -/
theorem unpack_sqrt_add_two {sig : Nat} {exp : Int} (hsig : sig ≠ 0) (hlt : sig < 2 ^ 53) (hlow : -60 ≤ exp)
    (hhigh : exp ≤ 60) :
    ∃ (m : Nat) (e : Int), m ≠ 0 ∧ binary64.unpack (binary64.sqrt (.finite false sig exp)) = .finite false m e ∧
      binary64.unpack (binary64.sqrt (.finite false sig (exp + 2))) = .finite false m (e + 1) := by
  have hmin : binary64.minExp = -1074 := by decide
  have hmaxField : binary64.maxField = 2047 := by decide
  have hfrac : binary64.fracBits = 52 := rfl
  rw [FpFormat.sqrt_positive _ hsig, FpFormat.sqrt_positive _ hsig, Int.add_emod_right,
    Int.add_ediv_of_dvd_right (Int.dvd_refl 2), hfrac]
  have hpos : 0 < (if exp % 2 = 1 then 2 * sig else sig) := by split <;> omega
  have hbits : (if exp % 2 = 1 then 2 * sig else sig) < 2 ^ 54 := by split <;> omega
  generalize (if exp % 2 = 1 then 2 * sig else sig) = sig' at *
  have hlarge : 2 ^ 55 * 2 ^ 55 ≤ sig' <<< 110 := by
    rw [Nat.shiftLeft_eq]
    omega
  have hsmall : sig' <<< 110 < 2 ^ 164 := by
    rw [Nat.shiftLeft_eq]
    omega
  have hlog := isqrtSticky_log2 hlarge
  have hlog' := isqrtSticky_lt hsmall
  rw [← Nat.log2_lt (by rintro h0; rw [h0] at hlog; simp at hlog)] at hlog'
  have hfull : binary64.fracBits < Nat.log2 (isqrtSticky (sig' <<< 110)) := by omega
  obtain ⟨m, c, hm, hscaled⟩ := binary64.unpack_pack_scaled false hfull
  refine ⟨m, _, hm, hscaled _ (by omega) (by omega), (hscaled _ (by omega) (by omega)).trans ?_⟩
  congr 1
  omega

/-- Four times a positive integer is converted to the same significand. -/
theorem f64Value_f64OfInt_four_mul {n : Int} (hpos : 0 < n) (hlt : n < 2 ^ 50) :
    ∃ (sig : Nat) (exp : Int), sig ≠ 0 ∧ -52 ≤ exp ∧ exp ≤ 0 ∧ f64Value (f64OfInt n) = .finite false sig exp ∧
      f64Value (f64OfInt (4 * n)) = .finite false sig (exp + 2) := by
  lift n to ℕ using hpos.le
  have h0 : n ≠ 0 := by omega
  have hlog : Nat.log2 n < 50 := (Nat.log2_lt h0).2 (by omega)
  have hlog4 : Nat.log2 (4 * n) = Nat.log2 n + 2 := by
    rw [show 4 * n = 2 * (2 * n) by ring, Nat.log2_two_mul (by omega), Nat.log2_two_mul h0]
  have hshift : (4 * n) <<< (52 - (Nat.log2 n + 2)) = n <<< (52 - Nat.log2 n) := by
    rw [show 52 - Nat.log2 n = 2 + (52 - (Nat.log2 n + 2)) by omega, Nat.shiftLeft_add, Nat.shiftLeft_eq n 2, Nat.mul_comm 4]
  have hval := f64Value_f64OfInt_of_lt (n := n) (by omega) (by omega)
  have hval4 := f64Value_f64OfInt_of_lt (n := 4 * n) (by omega) (by omega)
  have habs : (4 * (n : Int)).natAbs = 4 * n := by omega
  rw [habs, hlog4, hshift, decide_eq_false (by omega)] at hval4
  rw [Int.natAbs_natCast, decide_eq_false (by omega)] at hval
  refine ⟨_, _, ?_, ?_, ?_, hval, hval4.trans ?_⟩
  · rw [Nat.shiftLeft_eq]
    exact Nat.mul_ne_zero h0 (Nat.two_pow_pos _).ne'
  · omega
  · omega
  · congr 1
    push_cast
    omega

/-- The root of a positive integer, and that of four times it, which is exactly the double although both are rounded. -/
theorem f64Value_f64Sqrt_four_mul {n : Int} (hpos : 0 < n) (hlt : n < 2 ^ 50) :
    ∃ (sig : Nat) (exp : Int), sig ≠ 0 ∧ f64Value (f64Sqrt (f64OfInt n)) = .finite false sig exp ∧
      f64Value (f64Sqrt (f64OfInt (4 * n))) = .finite false sig (exp + 1) := by
  obtain ⟨sig, exp, hsig, hlow, hhigh, hval, hval4⟩ := f64Value_f64OfInt_four_mul hpos hlt
  obtain ⟨hsiglt, -, -⟩ := binary64.unpack_range hval
  obtain ⟨m, e, hm, hroot, hroot4⟩ := unpack_sqrt_add_two (exp := exp) hsig hsiglt (by omega) (by omega)
  refine ⟨m, e, hm, ?_, ?_⟩
  · rw [f64Value, f64Sqrt_toNat hval, hval, hroot]
  · rw [f64Value, f64Sqrt_toNat hval4, hval4, hroot4]

/-- The root of a nonnegative integer has no sign and is no NaN. -/
theorem f64Sqrt_f64OfInt_nonneg {n : Int} (h0 : 0 ≤ n) (hlt : n < 2 ^ 50) :
    (f64Sqrt (f64OfInt n)).msb = false ∧ f64Value (f64Sqrt (f64OfInt n)) ≠ .nan := by
  obtain rfl | hpos := h0.eq_or_lt
  · decide
  · obtain ⟨sig, exp, -, hval, -⟩ := f64Value_f64Sqrt_four_mul hpos hlt
    exact ⟨msb_of_f64Value_finite hval, ne_nan_of_f64Value_finite hval⟩

/-! ## Scaled arguments of ATAN2 -/

/-- `a'` is exactly `c` times `a` with the same sign, both finite; of the zeros, +0 only. -/
inductive F64ScalesTo (c : ℚ) : F64 → F64 → Prop
  | zero : F64ScalesTo c 0 0
  | nonzero {a a' : F64} {neg : Bool} {sig sig' : Nat} {exp exp' : Int} (ha : f64Value a = .finite neg sig exp)
      (ha' : f64Value a' = .finite neg sig' exp') (hsig : sig ≠ 0) (hsig' : sig' ≠ 0)
      (h : fpRat (f64Value a') = c * fpRat (f64Value a)) : F64ScalesTo c a a'

/-- For y = +0 and a nonzero x only the sign of x counts. -/
theorem atan2_zero_of_finite {x : F64} {neg : Bool} {sig : Nat} {exp : Int} (hx : f64Value x = .finite neg sig exp)
    (hsig : sig ≠ 0) : atan2 0 x = if neg then pi64 else 0 := by
  cases neg with
  | false => exact atan2_zero_of_not_msb (msb_of_f64Value_finite hx) (ne_nan_of_f64Value_finite hx)
  | true => exact atan2_zero_of_msb (msb_of_f64Value_finite hx) (ne_zero_of_f64Value hx hsig).2 (ne_nan_of_f64Value_finite hx)

/-- For x = +0 and a nonzero y only the sign of y counts. -/
theorem atan2_finite_of_zero {y : F64} {neg : Bool} {sig : Nat} {exp : Int} (hy : f64Value y = .finite neg sig exp)
    (hsig : sig ≠ 0) : atan2 y 0 = if neg then f64Neg halfPi64 else halfPi64 := by
  obtain ⟨h0, hne⟩ := ne_zero_of_f64Value hy hsig
  cases neg with
  | false => exact atan2_of_zero (msb_of_f64Value_finite hy) h0 (ne_nan_of_f64Value_finite hy)
  | true => exact atan2_of_zero_of_msb (msb_of_f64Value_finite hy) hne (ne_nan_of_f64Value_finite hy)

/-- ATAN2 keeps its value when both arguments are scaled by one factor (R139). -/
theorem atan2_eq_of_scalesTo {c : ℚ} {y y' x x' : F64} (hy : F64ScalesTo c y y') (hx : F64ScalesTo c x x') :
    atan2 y' x' = atan2 y x := by
  cases hy with
  | zero =>
    cases hx with
    | zero => rfl
    | nonzero hx hx' hsx hsx' _ => rw [atan2_zero_of_finite hx hsx, atan2_zero_of_finite hx' hsx']
  | nonzero hy hy' hsy hsy' hyc =>
    cases hx with
    | zero => rw [atan2_finite_of_zero hy hsy, atan2_finite_of_zero hy' hsy']
    | nonzero hx hx' hsx hsx' hxc =>
      refine atan2_eq_of_ratio hy hx hy' hx' hsy hsx hsy' hsx' ?_
      rw [hyc, hxc]
      ring

/-- A nonzero integer's pattern. -/
theorem f64OfInt_finite {n : Int} (h0 : n ≠ 0) (hn : n.natAbs ≤ 2 ^ 53) : ∃ sig exp,
    f64Value (f64OfInt n) = .finite (decide (n < 0)) sig exp ∧ sig ≠ 0 ∧ fpRat (f64Value (f64OfInt n)) = n := by
  obtain ⟨sig, exp, hval, hrat⟩ := integerConversionIsExact n hn
  refine ⟨sig, exp, hval, ?_, hrat⟩
  rintro rfl
  rw [hval, fpRat, Nat.cast_zero, mul_zero, zero_mul] at hrat
  exact h0 (Int.cast_eq_zero.1 hrat.symm)

/-- The patterns of an integer and a positive multiple of it. -/
theorem f64OfInt_scalesTo {k n : Int} (hk : 0 < k) (hn : n.natAbs ≤ 2 ^ 53) (hkn : (k * n).natAbs ≤ 2 ^ 53) :
    F64ScalesTo k (f64OfInt n) (f64OfInt (k * n)) := by
  by_cases h0 : n = 0
  · subst h0
    rw [mul_zero]
    exact .zero
  · obtain ⟨sig, exp, hval, hsig, hrat⟩ := f64OfInt_finite h0 hn
    obtain ⟨sig', exp', hval', hsig', hrat'⟩ := f64OfInt_finite (mul_ne_zero hk.ne' h0) hkn
    have hsign : decide (k * n < 0) = decide (n < 0) := decide_eq_decide.2 (smul_neg_iff_of_pos_left hk)
    rw [hsign] at hval'
    exact .nonzero hval hval' hsig hsig' (by rw [hrat, hrat', Int.cast_mul])

/-- The roots of a nonnegative integer and of four times it. -/
theorem f64Sqrt_scalesTo {n : Int} (h0 : 0 ≤ n) (hlt : n < 2 ^ 50) :
    F64ScalesTo 2 (f64Sqrt (f64OfInt n)) (f64Sqrt (f64OfInt (4 * n))) := by
  obtain rfl | hpos := h0.eq_or_lt
  · exact .zero
  · obtain ⟨sig, exp, hsig, hval, hval4⟩ := f64Value_f64Sqrt_four_mul hpos hlt
    refine .nonzero hval hval4 hsig hsig ?_
    rw [hval, hval4, fpRat_finite, fpRat_finite, zpow_add_one₀ two_ne_zero]
    ring

/-! ## Samples -/

/-- A sample's magnitude is at most 2^15. -/
theorem sample_natAbs_le (v : BitVec 16) : v.toInt.natAbs ≤ 2 ^ 15 := by
  have hlo := v.le_toInt
  have hhi := v.toInt_lt
  omega

/-- The sum of squares is exact and at most 2^31 (R138). -/
theorem sumSquares_range (y z : BitVec 16) : 0 ≤ sumSquares y z ∧ sumSquares y z ≤ 2 ^ 31 := by
  have hy := Int.natAbs_le_iff_mul_self_le (b := 2 ^ 15).1 (sample_natAbs_le y)
  have hz := Int.natAbs_le_iff_mul_self_le (b := 2 ^ 15).1 (sample_natAbs_le z)
  rw [sumSquares]
  exact ⟨add_nonneg (mul_self_nonneg _) (mul_self_nonneg _), by linarith⟩

/-- A nonzero sample's pattern. -/
theorem f64OfInt_sample {v : BitVec 16} (h0 : v.toInt ≠ 0) :
    ∃ sig exp, f64Value (f64OfInt v.toInt) = .finite (decide (v.toInt < 0)) sig exp ∧ sig ≠ 0 := by
  have hv := sample_natAbs_le v
  obtain ⟨sig, exp, hval, hsig, -⟩ := f64OfInt_finite h0 (by omega)
  exact ⟨sig, exp, hval, hsig⟩

/-- A sample scaled by a positive integer. -/
theorem f64OfInt_sample_scalesTo {k : Int} (hk : 0 < k) {v v' : BitVec 16} (h : v'.toInt = k * v.toInt) :
    F64ScalesTo k (f64OfInt v.toInt) (f64OfInt v'.toInt) := by
  have hv := sample_natAbs_le v
  have hv' := sample_natAbs_le v'
  rw [h] at hv' ⊢
  exact f64OfInt_scalesTo hk (by omega) (by omega)

/-! ## ORIENT -/

/-- DEG_PER_RAD is one of the two legal values (R137). -/
theorem degPerRad_cases : degPerRad = degPerRadLiteral ∨ degPerRad = degPerRadExact := by
  rw [degPerRad]
  split
  · exact .inr rfl
  · exact .inl rfl

/-- The angle +0 in degrees. -/
theorem f64Mul_zero_degPerRad : f64Mul 0 degPerRad = 0 := by
  obtain h | h := degPerRad_cases <;> rw [h] <;> decide +kernel

/-- Negating the angle −π/2 in degrees gives π/2 in degrees. -/
theorem f64Neg_f64Mul_halfPi : f64Neg (f64Mul (f64Neg halfPi64) degPerRad) = f64Mul halfPi64 degPerRad := by
  obtain h | h := degPerRad_cases <;> rw [h] <;> decide +kernel

/-- X = 0 has the pitch −0.0 (R139, D21). -/
theorem orient_pitch_of_x_zero (y z : BitVec 16) : (orient 0 y z).2 = 0x8000000000000000#64 := by
  obtain ⟨h0, hle⟩ := sumSquares_range y z
  obtain ⟨hmsb, hnan⟩ := f64Sqrt_f64OfInt_nonneg h0 (by omega)
  change f64Neg (f64Mul (atan2 0 (f64Sqrt (f64OfInt (sumSquares y z)))) degPerRad) = _
  rw [atan2_zero_of_not_msb hmsb hnan, f64Mul_zero_degPerRad]
  rfl

/-- Y = 0 and Z ≥ 0 have the roll +0. -/
theorem orient_roll_of_y_zero (x : BitVec 16) {z : BitVec 16} (hz : 0 ≤ z.toInt) : (orient x 0 z).1 = 0 := by
  have hrange := sample_natAbs_le z
  obtain ⟨sig, exp, hval, -⟩ := integerConversionIsExact z.toInt (by omega)
  rw [decide_eq_false hz.not_gt] at hval
  change f64Mul (atan2 0 (f64OfInt z.toInt)) degPerRad = 0
  rw [atan2_zero_of_not_msb (msb_of_f64Value_finite hval) (ne_nan_of_f64Value_finite hval), f64Mul_zero_degPerRad]

/-- Y = 0 and Z < 0 have the roll π in degrees. -/
theorem orient_roll_of_z_neg (x : BitVec 16) {z : BitVec 16} (hz : z.toInt < 0) : (orient x 0 z).1 = f64Mul pi64 degPerRad := by
  obtain ⟨sig, exp, hval, hsig⟩ := f64OfInt_sample hz.ne
  change f64Mul (atan2 0 (f64OfInt z.toInt)) degPerRad = _
  rw [atan2_zero_of_finite hval hsig, decide_eq_true hz, if_pos rfl]

/-- X > 0 alone has the pitch −π/2 in degrees. -/
theorem orient_pitch_of_x_pos {x : BitVec 16} (hx : 0 < x.toInt) : (orient x 0 0).2 = f64Neg (f64Mul halfPi64 degPerRad) := by
  obtain ⟨sig, exp, hval, hsig⟩ := f64OfInt_sample hx.ne'
  change f64Neg (f64Mul (atan2 (f64OfInt x.toInt) 0) degPerRad) = _
  rw [atan2_finite_of_zero hval hsig, decide_eq_false hx.not_gt]
  rfl

/-- X < 0 alone has the pitch π/2 in degrees. -/
theorem orient_pitch_of_x_neg {x : BitVec 16} (hx : x.toInt < 0) : (orient x 0 0).2 = f64Mul halfPi64 degPerRad := by
  obtain ⟨sig, exp, hval, hsig⟩ := f64OfInt_sample hx.ne
  change f64Neg (f64Mul (atan2 (f64OfInt x.toInt) 0) degPerRad) = _
  rw [atan2_finite_of_zero hval hsig, decide_eq_true hx, if_pos rfl, f64Neg_f64Mul_halfPi]

section
variable {x y z x' y' z' : BitVec 16}

/-- A positive multiple of Y and Z has the same roll (R139). -/
theorem orient_roll_of_multiple {k : Int} (x x' : BitVec 16) (hk : 0 < k) (hy : y'.toInt = k * y.toInt)
    (hz : z'.toInt = k * z.toInt) : (orient x' y' z').1 = (orient x y z).1 :=
  congrArg (f64Mul · degPerRad) (atan2_eq_of_scalesTo (f64OfInt_sample_scalesTo hk hy) (f64OfInt_sample_scalesTo hk hz))

/-- The doubled sample has the same pitch: the sum of squares is four times as large, and its root exactly twice. -/
theorem orient_pitch_of_double (hx : x'.toInt = 2 * x.toInt) (hy : y'.toInt = 2 * y.toInt) (hz : z'.toInt = 2 * z.toInt) :
    (orient x' y' z').2 = (orient x y z).2 := by
  obtain ⟨h0, hle⟩ := sumSquares_range y z
  have hsum : sumSquares y' z' = 4 * sumSquares y z := by
    rw [sumSquares, sumSquares, hy, hz]
    ring
  have hroot : F64ScalesTo 2 (f64Sqrt (f64OfInt (sumSquares y z))) (f64Sqrt (f64OfInt (sumSquares y' z'))) := by
    rw [hsum]
    exact f64Sqrt_scalesTo h0 (by omega)
  exact congrArg (fun a => f64Neg (f64Mul a degPerRad)) (atan2_eq_of_scalesTo (f64OfInt_sample_scalesTo two_pos hx) hroot)

end

/-- Settles O42: the formula is ORIENT's definition, and its laws are the lemmas above. -/
theorem orientFollowsItsFormula : Obligations.OrientFollowsItsFormula :=
  ⟨fun _ y z => ⟨rfl, rfl, sumSquares_range y z⟩, orient_pitch_of_x_zero, fun x _ => orient_roll_of_y_zero x,
    fun x _ => orient_roll_of_z_neg x, fun _ => orient_pitch_of_x_pos, fun _ => orient_pitch_of_x_neg, degPerRad_cases,
    fun _ x x' _ _ _ _ => orient_roll_of_multiple x x',
    fun x _ _ x' _ _ hx hy hz => Prod.ext (orient_roll_of_multiple x x' two_pos hy hz) (orient_pitch_of_double hx hy hz)⟩

end Sys2Proof.Machine
end

section
/-! SUPPORT. The threshold commands (spec/43_threshold_codec.md R166 to R174), with O46 to O49: TENC and TDEC touch no bus, SET_THRESH
and GET_THRESH are one transaction, and CLEAR_SETTINGS passes over the writes that are acknowledged. -/

namespace Sys2Proof.Machine

/-! ## The commands of one kind -/

/-- The index of a kind names it (R90). -/
@[simp] theorem kindOfByte_kindIndex (k : Kind) : kindOfByte (kindIndex k) = some k := by cases k <;> rfl

/-- TENC of a kind's index is a pure command (R166). -/
theorem exec_tenc_kindIndex (k : Kind) (s : State) : exec (.tenc (kindIndex k)) s =
    pureCommand s fun r => r.setResult (thresholdEncode r.arg0 k).toWord := by
  simp only [exec, execTenc, kindOfByte_kindIndex]

/-- TDEC of a kind's index is a pure command (R167). -/
theorem exec_tdec_kindIndex (k : Kind) (c : Byte) (s : State) : exec (.tdec (kindIndex k) c) s =
    pureCommand s fun r => r.setResult (thresholdDecode c k) := by
  simp only [exec, execTdec, kindOfByte_kindIndex]

/-- SET_THRESH of a kind's index is a one-write command (R168). -/
theorem exec_setThresh_kindIndex (k : Kind) (s : State) : exec (.setThresh (kindIndex k)) s =
    busCommand s fun s1 => s1.memWrite s.regs (threshAddr k) (thresholdEncode s1.regs.arg0 k) fun s2 =>
      (s2.update fun r => r.setResult (thresholdEncode r.arg0 k).toWord).finishOk := by
  simp only [exec, execSetThresh, kindOfByte_kindIndex]

/-- GET_THRESH of a kind's index is a one-read command (R169). -/
theorem exec_getThresh_kindIndex (k : Kind) (s : State) : exec (.getThresh (kindIndex k)) s =
    busCommand s fun s1 => s1.memRead s.regs (threshAddr k) 1 fun d s2 =>
      (s2.update fun r => r.setResult (thresholdDecode d.b0 k)).finishOk := by
  simp only [exec, execGetThresh, kindOfByte_kindIndex]

/-- Settles O46: TENC and TDEC are pure commands. -/
theorem tencAndTdecWriteResult : Obligations.TencAndTdecWriteResult :=
  fun k c s => ⟨exec_tenc_kindIndex k s, exec_tdec_kindIndex k c s⟩

/-- Settles O47: SET_THRESH is a one-write command. -/
theorem setThreshWritesTheEncodedValue : Obligations.SetThreshWritesTheEncodedValue := by
  intro k s hb
  rw [exec_setThresh_kindIndex]
  exact ⟨fun _ hd => busCommand_memWrite_ok (v := fun s1 => thresholdEncode s1.regs.arg0 k) hb hd,
    fun he => busCommand_memWrite_err (v := fun s1 => thresholdEncode s1.regs.arg0 k) hb he⟩

/-- Settles O48: GET_THRESH is a one-read command. -/
theorem getThreshReturnsTheDecodedValue : Obligations.GetThreshReturnsTheDecodedValue := by
  intro k s hb
  rw [exec_getThresh_kindIndex]
  exact ⟨fun _ hd => busCommand_memRead_ok hb hd, fun he => busCommand_memRead_err hb he⟩

/-! ## CLEAR_SETTINGS -/

/-- The transactions of the first writes are the first transactions. -/
theorem writeTransactions_take (ws : List (Byte × Byte)) (n : Nat) :
    writeTransactions (ws.take n) = (writeTransactions ws).take n := List.map_take

/-- The loop of CLEAR_SETTINGS passes over writes that all answer Ok: it counts them and goes on with the rest (R170). -/
theorem clearSettingsFrom_append {base : Regs} {rest : List (Byte × Byte)} : ∀ {ws : List (Byte × Byte)} {n : Nat} {s : State},
    s.bus.allOk s.regs.busAddr (writeTransactions ws) = true →
    clearSettingsFrom base (ws ++ rest) n s = clearSettingsFrom base rest (n + ws.length)
      { s with bus := s.bus.issueAll s.regs.busAddr (writeTransactions ws) } := by
  intro ws
  induction ws with
  | nil => exact fun _ => rfl
  | cons w ws ih =>
    intro n s hok
    change Bus.allOk s.bus s.regs.busAddr (.memWrite w.1 [w.2] :: writeTransactions ws) = true at hok
    cases h : s.bus.nextAnswer with
    | ok d =>
      rw [Bus.allOk, h] at hok
      rw [List.cons_append, clearSettingsFrom, State.transact_ok h, ih hok, List.length_cons, Nat.add_right_comm, Nat.add_assoc]
      rfl
    | err => simp [Bus.allOk, h] at hok
    | never => simp [Bus.allOk, h] at hok

/-- The loop of CLEAR_SETTINGS ends at a write that answers Err, with the count of the writes before it in RESULT (R172, R174). -/
theorem clearSettingsFrom_err {base : Regs} {w : Byte × Byte} {rest : List (Byte × Byte)} {n : Nat} {s : State}
    (h : s.bus.nextAnswer = .err) : clearSettingsFrom base (w :: rest) n s =
      { s with
        regs := (s.regs.setResult (BitVec.ofNat 32 n)).setCode 1
        bus := s.bus.issue s.regs.busAddr (.memWrite w.1 [w.2]) } := by
  rw [clearSettingsFrom, State.transact_err h]
  rfl

/-- The loop of CLEAR_SETTINGS whose first `m` writes answer Ok and whose next answers Err: that one is the last issued. -/
theorem clearSettingsFrom_err_at {base : Regs} {ws : List (Byte × Byte)} {m : Nat} {s : State} (hm : m < ws.length)
    (hok : s.bus.allOk s.regs.busAddr ((writeTransactions ws).take m) = true)
    (herr : (s.bus.issueAll s.regs.busAddr ((writeTransactions ws).take m)).nextAnswer = .err) :
    clearSettingsFrom base ws 0 s =
      { s with
        regs := (s.regs.setResult (BitVec.ofNat 32 m)).setCode 1
        bus := s.bus.issueAll s.regs.busAddr ((writeTransactions ws).take (m + 1)) } := by
  have hsplit : ws = ws.take m ++ ws[m] :: ws.drop (m + 1) := by
    rw [← List.drop_eq_getElem_cons hm, List.take_append_drop]
  have hlast : (writeTransactions ws).take (m + 1) =
      (writeTransactions ws).take m ++ [.memWrite ws[m].1 [ws[m].2]] := by
    rw [← writeTransactions_take, ← List.take_concat_get' ws m hm, ← writeTransactions_take]
    exact List.map_append
  rw [← writeTransactions_take] at hok herr
  conv_lhs => rw [hsplit]
  rw [clearSettingsFrom_append hok, clearSettingsFrom_err herr, hlast, Bus.issueAll_append, writeTransactions_take,
    List.length_take, Nat.min_eq_left hm.le, Nat.zero_add]
  rfl

/-- Settles O49: the ten writes are those of the loop, which passes over acknowledged writes and ends at an Err. -/
theorem clearSettingsCountsAcknowledgedWrites : Obligations.ClearSettingsCountsAcknowledgedWrites := by
  intro s hb ts
  have hts : ts = writeTransactions clearSettingsWrites := (writeTransactions_clearSettings 0).symm
  have hrun : exec .clearSettings s = .next (clearSettingsFrom s.regs clearSettingsWrites 0 s.start) := busCommand_bound hb _
  rw [hts, hrun]
  refine ⟨fun hok => ?_, fun n hn hok herr => ?_⟩
  · have hall := clearSettingsFrom_append (base := s.regs) (rest := []) (n := 0) (s := s.start) hok
    rw [List.append_nil] at hall
    rw [hall]
    rfl
  · rw [clearSettingsFrom_err_at (s := s.start) hn hok herr]
    rfl

end Sys2Proof.Machine
end

section
/-! SUPPORT. ENCODE (spec/43_threshold_codec.md R161, R162), with O50 and O51: the comparisons and the truncation of ENCODE as facts
about the rational value of the quotient, and the sign of the quotient. -/

namespace Sys2Proof.Machine

/-! ## The comparisons and the truncation of a binary32 value -/

/-- The floor of an integer scaled by a power of two is a shift. -/
theorem floor_mul_two_zpow (sig : Nat) (exp : Int) :
    ⌊(sig : ℚ) * 2 ^ exp⌋ = ((if 0 ≤ exp then sig <<< exp.toNat else sig >>> (-exp).toNat : Nat) : Int) := by
  split
  · rename_i h
    lift exp to ℕ using h
    rw [Int.toNat_natCast, Nat.shiftLeft_eq, zpow_natCast, ← Int.floor_natCast (R := ℚ)]
    push_cast
    rfl
  · obtain ⟨n, rfl⟩ : ∃ n : Nat, exp = -n := ⟨(-exp).toNat, by omega⟩
    have hfloor := Rat.floor_intCast_div_natCast sig (2 ^ n)
    rw [neg_neg, Int.toNat_natCast, Nat.shiftRight_eq_div_pow, zpow_neg, zpow_natCast, ← div_eq_mul_inv]
    push_cast at hfloor ⊢
    exact hfloor

/-- A value without a sign is not negative. -/
theorem fpRat_finite_nonneg (sig : Nat) (exp : Int) : 0 ≤ fpRat (.finite false sig exp) := by
  simpa [fpRat_finite] using by positivity

/-- A value with a sign is not positive. -/
theorem fpRat_finite_nonpos (sig : Nat) (exp : Int) : fpRat (.finite true sig exp) ≤ 0 := by
  simpa [fpRat_finite] using by positivity

/-- A nonzero value with a sign is negative. -/
theorem fpRat_finite_neg_iff (sig : Nat) (exp : Int) : fpRat (.finite true sig exp) < 0 ↔ sig ≠ 0 := by
  have hpow : (0 : ℚ) < 2 ^ exp := by positivity
  simp [fpRat_finite, hpow, Nat.pos_iff_ne_zero]

section
variable {a : F32} {neg : Bool} {sig : Nat} {exp : Int} (h : f32Value a = .finite neg sig exp)
include h

/-- `q < 0` compares the value. -/
theorem f32LtZero_iff : f32LtZero a = true ↔ fpRat (.finite neg sig exp) < 0 := by
  have hlt : f32LtZero a = (neg && sig != 0) := by rw [f32LtZero, h]
  rw [hlt]
  cases neg with
  | false => simpa using fpRat_finite_nonneg sig exp
  | true => simp [fpRat_finite_neg_iff]

/-- `q > 255` compares the value. -/
theorem f32Gt255_iff : f32Gt255 a = true ↔ 255 < fpRat (.finite neg sig exp) := by
  have hgt : f32Gt255 a =
    (!neg && (if 0 ≤ exp then decide (255 < sig <<< exp.toNat) else decide (255 <<< (-exp).toNat < sig))) := by rw [f32Gt255, h]
  rw [hgt]
  cases neg with
  | true => simpa using (fpRat_finite_nonpos sig exp).trans (by norm_num)
  | false =>
    have hval : fpRat (.finite false sig exp) = sig * 2 ^ exp := by simp [fpRat_finite]
    rw [hval, Bool.not_false, Bool.true_and]
    by_cases he : 0 ≤ exp
    · lift exp to ℕ using he
      rw [if_pos (Int.natCast_nonneg exp), decide_eq_true_iff, Int.toNat_natCast, Nat.shiftLeft_eq, zpow_natCast]
      norm_cast
    · obtain ⟨n, rfl⟩ : ∃ n : Nat, exp = -n := ⟨(-exp).toNat, by omega⟩
      have hn : (0 : ℚ) < 2 ^ n := by positivity
      rw [if_neg he, decide_eq_true_iff, neg_neg, Int.toNat_natCast, Nat.shiftLeft_eq, zpow_neg, zpow_natCast, ← div_eq_mul_inv,
        lt_div_iff₀ hn]
      norm_cast

/-- `trunc` of a value that is not negative is its floor; −0 is one of them. -/
theorem f32Trunc_eq_floor (h0 : 0 ≤ fpRat (.finite neg sig exp)) : (f32Trunc a : Int) = ⌊fpRat (.finite neg sig exp)⌋ := by
  have htrunc : f32Trunc a = if 0 ≤ exp then sig <<< exp.toNat else sig >>> (-exp).toNat := by rw [f32Trunc, h]
  rw [htrunc, ← floor_mul_two_zpow]
  cases neg with
  | false => simp [fpRat_finite]
  | true =>
    have hsig : sig = 0 := not_not.1 fun hne => h0.not_gt ((fpRat_finite_neg_iff sig exp).2 hne)
    simp [fpRat_finite, hsig]

end

/-! ## ENCODE -/

section
variable {v : F32} {k : Kind} {neg : Bool} {sig : Nat} {exp : Int}

/-- A NaN quotient encodes to 0. -/
theorem thresholdEncode_of_nan (h : f32Value (f32Div v (scale32 k)) = .nan) : thresholdEncode v k = 0 := by
  simp [thresholdEncode, thresholdQuotient, f32IsNan, h]

/-- An infinite quotient saturates on the side of its sign. -/
theorem thresholdEncode_of_inf (h : f32Value (f32Div v (scale32 k)) = .inf neg) :
    thresholdEncode v k = if neg then 0 else 0xFF := by
  cases neg <;> simp [thresholdEncode, thresholdQuotient, f32IsNan, f32LtZero, f32Gt255, h]

section
variable (h : f32Value (f32Div v (scale32 k)) = .finite neg sig exp)
include h

/-- ENCODE of a finite quotient compares its value with the bounds. -/
theorem thresholdEncode_of_finite : thresholdEncode v k =
    if fpRat (.finite neg sig exp) < 0 then 0 else if 255 < fpRat (.finite neg sig exp) then 0xFF
    else BitVec.ofNat 8 (f32Trunc (f32Div v (scale32 k))) := by
  have hnan : f32IsNan (f32Div v (scale32 k)) = false := by rw [f32IsNan, h]; rfl
  simp only [thresholdEncode, thresholdQuotient, hnan, f32LtZero_iff h, f32Gt255_iff h, Bool.false_eq_true, if_false]

/-- A negative quotient encodes to 0. -/
theorem thresholdEncode_of_neg (hneg : fpRat (.finite neg sig exp) < 0) : thresholdEncode v k = 0 := by
  rw [thresholdEncode_of_finite h, if_pos hneg]

/-- A quotient above 255 saturates. -/
theorem thresholdEncode_of_gt (hgt : 255 < fpRat (.finite neg sig exp)) : thresholdEncode v k = 0xFF := by
  rw [thresholdEncode_of_finite h, if_neg (by linarith), if_pos hgt]

/-- A quotient in the range is truncated to its floor. -/
theorem thresholdEncode_eq_floor (h0 : 0 ≤ fpRat (.finite neg sig exp)) (hle : fpRat (.finite neg sig exp) ≤ 255) :
    ((thresholdEncode v k).toNat : Int) = ⌊fpRat (.finite neg sig exp)⌋ := by
  have htrunc := f32Trunc_eq_floor h h0
  have hlt : ⌊fpRat (.finite neg sig exp)⌋ < 256 := Int.floor_lt.2 (by push_cast; linarith)
  rw [thresholdEncode_of_finite h, if_neg (not_lt.2 h0), if_neg (not_lt.2 hle), BitVec.toNat_ofNat, ← htrunc]
  omega

end
end

/-- Settles O50: the cases of the quotient. -/
theorem encodeClampsThenTruncates : Obligations.EncodeClampsThenTruncates :=
  fun _ _ => ⟨thresholdEncode_of_nan, thresholdEncode_of_inf, thresholdEncode_of_inf, fun _ _ _ h =>
    ⟨thresholdEncode_of_neg h, thresholdEncode_of_gt h, thresholdEncode_eq_floor h⟩⟩

/-! ## The sign of a quotient -/

/-- A pattern is a NaN, or its value has its sign bit. -/
theorem FpFormat.unpack_cases (f : FpFormat) (bits : Nat) : f.unpack bits = .nan ∨
    f.unpack bits = .inf (bits.testBit (f.fracBits + f.expBits)) ∨
    ∃ sig exp, f.unpack bits = .finite (bits.testBit (f.fracBits + f.expBits)) sig exp := by
  simp only [FpFormat.unpack]
  split
  · split
    · exact .inr (.inl rfl)
    · exact .inl rfl
  · split
    · exact .inr (.inr ⟨_, _, rfl⟩)
    · exact .inr (.inr ⟨_, _, rfl⟩)

/-- A binary32 pattern is a NaN, or its value has its sign bit. -/
theorem f32Value_cases (a : F32) :
    f32Value a = .nan ∨ f32Value a = .inf a.msb ∨ ∃ sig exp, f32Value a = .finite a.msb sig exp := by
  have hmsb : a.toNat.testBit (binary32.fracBits + binary32.expBits) = a.msb := (BitVec.msb_eq_getLsbD_last a).symm
  have h := binary32.unpack_cases a.toNat
  rwa [hmsb] at h

section
variable {a b : F32} {na nb : Bool} {sa sb : Nat} {ea eb : Int} (ha : f32Value a = .finite na sa ea)
  (hb : f32Value b = .finite nb sb eb)
include ha hb

/-- The binary32 product rounds the exact one (O58). -/
theorem f32Mul_rounds : binary32.Rounds (na != nb) ((fpRat (f32Value a) : ℝ) * fpRat (f32Value b)) (f32Mul a b).toNat := by
  obtain ⟨-, -, hops, -⟩ := arithmeticRoundsToNearestEven
  exact (hops a b na nb sa sb ea eb ha hb).1

/-- The binary32 quotient rounds the exact one (O58). -/
theorem f32Div_rounds (hsb : sb ≠ 0) :
    binary32.Rounds (na != nb) ((fpRat (f32Value a) : ℝ) / fpRat (f32Value b)) (f32Div a b).toNat := by
  obtain ⟨-, -, hops, -⟩ := arithmeticRoundsToNearestEven
  exact (hops a b na nb sa sb ea eb ha hb).2 hsb

end

/-- A rounding has the sign it was made with. -/
theorem FpFormat.Rounds.sign {f : FpFormat} {neg : Bool} {v : ℝ} {bits : Nat} (h : f.Rounds neg v bits) :
    f.unpack bits = .inf neg ∨ ∃ sig exp, f.unpack bits = .finite neg sig exp := by
  obtain ⟨hover, hfin⟩ := h
  obtain hle | hlt := le_or_gt f.overflowAt |v|
  · exact .inl (hover hle)
  · obtain ⟨sig, exp, hval, -⟩ := hfin hlt
    exact .inr ⟨sig, exp, hval⟩

/-- Every scale is finite and positive (R40, R173). -/
theorem scale32_positive (k : Kind) : ∃ sig exp, f32Value (scale32 k) = .finite false sig exp ∧ sig ≠ 0 := by
  cases k <;> exact ⟨_, _, rfl, by decide⟩

/-- The quotient of ENCODE is a NaN or has the sign of the value. -/
theorem f32Div_scale32_sign (v : F32) (k : Kind) : f32Value (f32Div v (scale32 k)) = .nan ∨
    f32Value (f32Div v (scale32 k)) = .inf v.msb ∨ ∃ sig exp, f32Value (f32Div v (scale32 k)) = .finite v.msb sig exp := by
  obtain ⟨sb, eb, hscale, hsb⟩ := scale32_positive k
  obtain hnan | hinf | ⟨sa, ea, hfin⟩ := f32Value_cases v
  · exact .inl (f32Div_nan hnan _)
  · have h := f32Div_inf hinf hscale
    rw [Bool.bne_false] at h
    exact .inr (.inl h)
  · have h := (f32Div_rounds hfin hscale hsb).sign
    rw [Bool.bne_false] at h
    exact .inr h

/-- Settles O51: the quotient is a NaN or has its sign set, and then it is an infinity, or below 0, or −0. -/
theorem negativeValuesEncodeToZero : Obligations.NegativeValuesEncodeToZero := by
  intro v k hmsb
  have hsign := f32Div_scale32_sign v k
  rw [hmsb] at hsign
  obtain hnan | hinf | ⟨sig, exp, hfin⟩ := hsign
  · exact thresholdEncode_of_nan hnan
  · exact thresholdEncode_of_inf hinf
  · obtain hlt | heq := (fpRat_finite_nonpos sig exp).lt_or_eq
    · exact thresholdEncode_of_neg hfin hlt
    · have hfloor := thresholdEncode_eq_floor hfin heq.ge (by linarith)
      rw [heq, Int.floor_zero] at hfloor
      exact BitVec.eq_of_toNat_eq (by simpa using hfloor)

end Sys2Proof.Machine
end

section
/-! SUPPORT. The round trips of the codec (spec/43_threshold_codec.md R164, R165), with O52 and O53: a value the format holds rounds to
itself, so by an exact scale, a power of two, ENCODE and DECODE are exact. -/

namespace Sys2Proof.Machine

/-! ## Exact results -/

/-- A significand of the format above its finest exponent, scaled below the overflow, is the value of a pattern: a short significand is
shifted up until it is full or its exponent is the finest. -/
theorem FpFormat.exists_unpack_scaled {f : FpFormat} (hmax : 2 ≤ f.maxField) (neg : Bool) : ∀ (d sig : Nat),
    sig < 2 ^ (f.fracBits + 1) → (sig : ℝ) * 2 ^ (f.minExp + d) < f.overflowAt →
    ∃ bits sig' exp', f.unpack bits = .finite neg sig' exp' ∧ (sig' : ℝ) * 2 ^ exp' = sig * 2 ^ (f.minExp + d) := by
  intro d
  induction d with
  | zero =>
    intro sig hsig _
    refine ⟨_, sig, _, FpFormat.unpack_finite neg hsig (.inl rfl) ?_, rfl⟩
    calc 0 * 2 ^ f.fracBits + sig < 2 * 2 ^ f.fracBits := by rw [pow_succ] at hsig; omega
      _ ≤ f.maxField * 2 ^ f.fracBits := Nat.mul_le_mul_right _ hmax
  | succ d ih =>
    intro sig hsig hover
    by_cases hfull : 2 ^ f.fracBits ≤ sig
    · refine ⟨_, sig, _, FpFormat.unpack_finite neg hsig (.inr hfull) ?_, rfl⟩
      have hd : d + 1 < f.maxField - 1 := by
        have hlt : (2 : ℝ) ^ ((f.fracBits : Int) + (f.minExp + (d + 1 : Nat))) <
            2 ^ (((f.fracBits + 1 : Nat) : Int) + (f.minExp + (f.maxField - 2 : Nat))) := by
          rw [zpow_add₀ two_ne_zero, zpow_add₀ two_ne_zero ((f.fracBits + 1 : Nat) : Int), zpow_natCast, zpow_natCast]
          calc (2 : ℝ) ^ f.fracBits * 2 ^ (f.minExp + (d + 1 : Nat)) ≤ sig * 2 ^ (f.minExp + (d + 1 : Nat)) := by
                gcongr
                exact_mod_cast hfull
            _ < f.overflowAt := hover
            _ ≤ 2 ^ (f.fracBits + 1) * 2 ^ (f.minExp + (f.maxField - 2 : Nat)) := by
                rw [FpFormat.overflowAt]
                gcongr
                linarith
        have := (zpow_lt_zpow_iff_right₀ one_lt_two).1 hlt
        omega
      calc (d + 1) * 2 ^ f.fracBits + sig < (d + 3) * 2 ^ f.fracBits := by rw [pow_succ] at hsig; linarith
        _ ≤ f.maxField * 2 ^ f.fracBits := Nat.mul_le_mul_right _ (by omega)
    · have hdouble : ((2 * sig : Nat) : ℝ) * 2 ^ (f.minExp + d) = sig * 2 ^ (f.minExp + (d + 1 : Nat)) := by
        rw [show f.minExp + ((d + 1 : Nat) : Int) = 1 + (f.minExp + d) by push_cast; ring, zpow_one_add₀ two_ne_zero]
        push_cast
        ring
      rw [← hdouble] at hover ⊢
      exact ih (2 * sig) (by rw [pow_succ]; omega) hover

/-- A value of the format that does not overflow rounds to itself. -/
theorem FpFormat.Rounds.exact {f : FpFormat} (hmax : 2 ≤ f.maxField) {neg : Bool} {sig bits : Nat} {exp : Int}
    (h : f.Rounds neg (fpRat (.finite neg sig exp)) bits) (hsig : sig < 2 ^ (f.fracBits + 1)) (hexp : f.minExp ≤ exp)
    (hover : |(fpRat (.finite neg sig exp) : ℝ)| < f.overflowAt) :
    ∃ sig' exp', f.unpack bits = .finite neg sig' exp' ∧ fpRat (.finite neg sig' exp') = fpRat (.finite neg sig exp) := by
  obtain ⟨d, rfl⟩ := Int.le.dest hexp
  obtain ⟨sig₁, exp₁, hval, hnear⟩ := h.2 hover
  have hpos : (0 : ℝ) ≤ sig * 2 ^ (f.minExp + d) := by positivity
  have habs : |(fpRat (.finite neg sig (f.minExp + d)) : ℝ)| = sig * 2 ^ (f.minExp + d) := by
    rw [fpRat_finite_cast]
    cases neg <;> simp [abs_of_nonneg hpos]
  rw [habs] at hover
  obtain ⟨other, sig₂, exp₂, hother, heq⟩ := f.exists_unpack_scaled hmax neg d sig hsig hover
  have hsame : (fpRat (.finite neg sig₂ exp₂) : ℝ) = fpRat (.finite neg sig (f.minExp + d)) := by
    rw [fpRat_finite_cast, fpRat_finite_cast, heq]
  obtain ⟨hle, -⟩ := hnear other neg sig₂ exp₂ hother
  rw [hsame, sub_self, abs_zero] at hle
  exact ⟨sig₁, exp₁, hval, Rat.cast_injective (α := ℝ) (sub_eq_zero.1 (abs_nonpos_iff.1 hle))⟩

/-- Above 256 there is room in binary32. -/
theorem binary32_overflowAt_gt : (256 : ℝ) < binary32.overflowAt := by
  have hmin : binary32.minExp = -149 := by decide
  have hmaxField : binary32.maxField = 255 := by decide
  rw [FpFormat.overflowAt, hmin, hmaxField, show binary32.fracBits = 23 from rfl]
  norm_num

/-- A binary32 value rounds to itself, or it is above 256 and overflows to an infinity. -/
theorem f32Value_of_rounds {neg : Bool} {sig : Nat} {exp : Int} {a : F32}
    (h : binary32.Rounds neg (fpRat (.finite neg sig exp)) a.toNat) (hsig : sig < 2 ^ 24) (hexp : -149 ≤ exp) :
    (f32Value a = .inf neg ∧ 256 < |fpRat (.finite neg sig exp)|) ∨
    ∃ sig' exp', f32Value a = .finite neg sig' exp' ∧ fpRat (.finite neg sig' exp') = fpRat (.finite neg sig exp) := by
  obtain ⟨-, hmax⟩ := binary32_bounds
  have hmin : binary32.minExp = -149 := by decide
  obtain hle | hlt := le_or_gt binary32.overflowAt |(fpRat (.finite neg sig exp) : ℝ)|
  · exact .inl ⟨h.1 hle, by exact_mod_cast binary32_overflowAt_gt.trans_le hle⟩
  · exact .inr (h.exact hmax hsig (hmin ▸ hexp) hlt)

/-- A binary32 value up to 256 rounds to itself. -/
theorem f32Value_of_rounds_le {neg : Bool} {sig : Nat} {exp : Int} {a : F32}
    (h : binary32.Rounds neg (fpRat (.finite neg sig exp)) a.toNat) (hsig : sig < 2 ^ 24) (hexp : -149 ≤ exp)
    (hle : |fpRat (.finite neg sig exp)| ≤ 256) :
    ∃ sig' exp', f32Value a = .finite neg sig' exp' ∧ fpRat (.finite neg sig' exp') = fpRat (.finite neg sig exp) :=
  (f32Value_of_rounds h hsig hexp).resolve_left fun hinf => hinf.2.not_ge hle

/-! ## The exact scales -/

/-- An exact scale is a power of two (R40). -/
theorem scale32_of_exactScale {k : Kind} (hk : exactScale k = true) : ∃ e : Int, -4 ≤ e ∧ e ≤ 0 ∧
    (∃ exp, f32Value (scale32 k) = .finite false (2 ^ 23) exp) ∧ fpRat (f32Value (scale32 k)) = 2 ^ e := by
  have hsixteenth : f32Value 0x3D800000 = .finite false (2 ^ 23) (-27) := rfl
  have hone : f32Value 0x3F800000 = .finite false (2 ^ 23) (-23) := rfl
  cases k with
  | threshTap | threshAct | threshInact | threshFf =>
    exact ⟨-4, by decide, by decide, ⟨_, hsixteenth⟩, by rw [scale32, hsixteenth]; norm_num [fpRat]⟩
  | timeInact => exact ⟨0, by decide, by decide, ⟨_, hone⟩, by rw [scale32, hone]; norm_num [fpRat]⟩
  | dur | latent | window | timeFf => cases hk

/-- `to_f32` of a byte is exact (R164). -/
theorem f32OfByte_exact (c : Byte) :
    ∃ sig exp, f32Value (f32OfByte c) = .finite false sig exp ∧ fpRat (.finite false sig exp) = c.toNat := by
  obtain ⟨hfrac, hmax⟩ := binary32_bounds
  have hval : fpRat (.finite false c.toNat 0) = c.toNat := by simp [fpRat]
  have hpack : (f32OfByte c).toNat = binary32.pack false c.toNat 0 := by
    rw [f32OfByte, BitVec.toNat_ofNat]
    exact Nat.mod_eq_of_lt (binary32.pack_lt _ _ _)
  have hrounds : binary32.Rounds false (fpRat (.finite false c.toNat 0)) (f32OfByte c).toNat := by
    rw [hpack, fpRat_finite_cast]
    exact FpFormat.pack_rounds_represented hfrac hmax false 0 (.inl rfl) (.inl rfl)
  have hlt := c.isLt
  rw [← hval]
  refine f32Value_of_rounds_le hrounds (by omega) (by decide) ?_
  rw [hval, Nat.abs_cast]
  exact_mod_cast hlt.le

section
variable {k : Kind} (hk : exactScale k = true)
include hk

/-- DECODE by an exact scale is the exact product (R164). -/
theorem thresholdDecode_exact (c : Byte) : ∃ sig exp, f32Value (thresholdDecode c k) = .finite false sig exp ∧
    fpRat (.finite false sig exp) = c.toNat * fpRat (f32Value (scale32 k)) := by
  obtain ⟨e, hlow, hhigh, ⟨_, hscale⟩, hpow⟩ := scale32_of_exactScale hk
  obtain ⟨sig, exp, hbyte, hc⟩ := f32OfByte_exact c
  have hval : fpRat (.finite false c.toNat e) = c.toNat * fpRat (f32Value (scale32 k)) := by
    rw [hpow, fpRat_finite]
    simp
  have hrounds : binary32.Rounds false (fpRat (.finite false c.toNat e)) (thresholdDecode c k).toNat := by
    have h := f32Mul_rounds hbyte hscale
    rw [hbyte, hc] at h
    rw [hval]
    exact_mod_cast h
  have hlt := c.isLt
  rw [← hval]
  refine f32Value_of_rounds_le hrounds (by omega) (by omega) ?_
  have hone : (2 : ℚ) ^ e ≤ 1 := zpow_le_one_of_nonpos₀ one_le_two hhigh
  have hcr : (c.toNat : ℚ) ≤ 256 := by exact_mod_cast hlt.le
  rw [hval, hpow, abs_of_nonneg (by positivity)]
  calc (c.toNat : ℚ) * 2 ^ e ≤ 256 * 1 := by gcongr
    _ = 256 := mul_one _

/-- ENCODE by an exact scale is the floor of the exact quotient, saturated at 255 (R163). -/
theorem thresholdEncode_exact {v : F32} {sig : Nat} {exp : Int} (hv : f32Value v = .finite false sig exp) :
    ((thresholdEncode v k).toNat : Int) = min 255 ⌊fpRat (f32Value v) / fpRat (f32Value (scale32 k))⌋ := by
  obtain ⟨e, -, hhigh, ⟨_, hscale⟩, hpow⟩ := scale32_of_exactScale hk
  obtain ⟨hsig, -, hexp⟩ := binary32.unpack_range hv
  have hmin : binary32.minExp = -149 := by decide
  have hval : fpRat (.finite false sig (exp - e)) = fpRat (f32Value v) / fpRat (f32Value (scale32 k)) := by
    rw [hpow, hv, fpRat_finite, fpRat_finite, zpow_sub₀ two_ne_zero]
    simp [mul_div_assoc]
  have hrounds : binary32.Rounds false (fpRat (.finite false sig (exp - e))) (f32Div v (scale32 k)).toNat := by
    have h := f32Div_rounds hv hscale (by decide)
    rw [hval]
    exact_mod_cast h
  have h0 := fpRat_finite_nonneg sig (exp - e)
  rw [← hval]
  obtain ⟨hinf, hgt⟩ | ⟨sig', exp', hfin, heq⟩ := f32Value_of_rounds hrounds hsig (by omega)
  · rw [abs_of_nonneg h0] at hgt
    rw [thresholdEncode_of_inf hinf, min_eq_left (Int.le_floor.2 (by push_cast; linarith))]
    rfl
  · rw [← heq] at h0 ⊢
    obtain hle | hgt := le_or_gt (fpRat (.finite false sig' exp')) 255
    · rw [thresholdEncode_eq_floor hfin h0 hle, min_eq_right]
      exact_mod_cast (Int.floor_le _).trans hle
    · rw [thresholdEncode_of_gt hfin hgt, min_eq_left (Int.le_floor.2 (by push_cast; linarith))]
      rfl

end

/-- The scale of every kind is positive. -/
theorem fpRat_scale32_pos (k : Kind) : 0 < fpRat (f32Value (scale32 k)) := by
  obtain ⟨sig, exp, hscale, hsig⟩ := scale32_positive k
  rw [hscale, fpRat_finite]
  simpa using by positivity

/-- Settles O53: with `x` the exact quotient, the error is `x - ⌊x⌋` scales. -/
theorem valueRoundTripErrorIsBelowOneLsb : Obligations.ValueRoundTripErrorIsBelowOneLsb := by
  intro v k sig exp hk hv hlt
  have hpos := fpRat_scale32_pos k
  obtain ⟨_, _, hdecode, hproduct⟩ := thresholdDecode_exact hk (thresholdEncode v k)
  have hencode := thresholdEncode_exact hk hv
  rw [hdecode, hproduct]
  generalize fpRat (f32Value v) = r at *
  generalize fpRat (f32Value (scale32 k)) = s at *
  have hfloor : ((thresholdEncode v k).toNat : Int) = ⌊r / s⌋ := by omega
  have hcast : ((thresholdEncode v k).toNat : ℚ) = ⌊r / s⌋ := by exact_mod_cast hfloor
  have herror : r - ⌊r / s⌋ * s = Int.fract (r / s) * s := by
    rw [Int.fract]
    field_simp
  rw [hcast, herror]
  exact ⟨mul_nonneg (Int.fract_nonneg _) hpos.le, mul_lt_of_lt_one_left hpos (Int.fract_lt_one _)⟩

/-- By an exact scale the code round trip is the identity. -/
theorem thresholdEncode_thresholdDecode_exact {k : Kind} (hk : exactScale k = true) (c : Byte) :
    thresholdEncode (thresholdDecode c k) k = c := by
  obtain ⟨_, _, hdecode, hproduct⟩ := thresholdDecode_exact hk c
  have hencode := thresholdEncode_exact hk hdecode
  rw [hdecode, hproduct, mul_div_cancel_right₀ _ (fpRat_scale32_pos k).ne', Int.floor_natCast] at hencode
  exact BitVec.eq_of_toNat_eq (by omega)

/-- The round trips of the inexact scales, code by code: they have one significand, and WINDOW has the scale of LATENT. -/
theorem thresholdEncode_thresholdDecode_inexact {k : Kind} (hk : exactScale k = false) : ∀ c : Byte,
    thresholdEncode (thresholdDecode c k) k = if c ∈ driftingCodes then c - 1 else c := by
  have hlatent : ∀ c : Byte, thresholdEncode (thresholdDecode c .latent) .latent = if c ∈ driftingCodes then c - 1 else c := by
    decide +kernel
  cases k with
  | dur => decide +kernel
  | latent => exact hlatent
  | window => exact hlatent
  | timeFf => decide +kernel
  | threshTap | threshAct | threshInact | threshFf | timeInact => cases hk

/-- Settles O52: the exact scales by their exact operations, the inexact ones code by code. -/
theorem codeRoundTripDriftsOnlyOnTheListedCodes : Obligations.CodeRoundTripDriftsOnlyOnTheListedCodes := by
  intro k c
  cases hk : exactScale k with
  | true => simpa using thresholdEncode_thresholdDecode_exact hk c
  | false => simpa using thresholdEncode_thresholdDecode_inexact hk c

end Sys2Proof.Machine
end

section
/-! SUPPORT. The interrupt status decoder (spec/44_interrupt_decoder.md R190 to R193): INTDEC bit by bit and as a mask, with O54 and
O55. -/

namespace Sys2Proof.Machine

/-- INTDEC bit by bit: bits 6 to 0 are the status byte's (R190). -/
theorem intdec_getLsbD (s : Byte) (n : Nat) : (intdec s).getLsbD n = (s.getLsbD n && decide (n < 7)) := by
  rw [intdec, BitVec.getLsbD_setWidth, BitVec.getLsbD_extractLsb', Nat.zero_add]
  by_cases hn : n < 7
  · simp [hn, show n < 8 by omega]
  · simp [hn]

/-- INTDEC masks bit 7 off (R190). -/
theorem intdec_eq_and (s : Byte) : intdec s = s &&& 0x7F := by
  have hmask : (0x7F : Byte) = (BitVec.allOnes 7).setWidth 8 := by decide
  refine BitVec.eq_of_getLsbD_eq fun n hn => ?_
  simp only [intdec_getLsbD, hmask, BitVec.getLsbD_and, BitVec.getLsbD_setWidth, BitVec.getLsbD_allOnes, hn, decide_true,
    Bool.true_and]

/-- INTDEC does not see bit 7 (R191). -/
theorem intdec_xor_bit7 (s : Byte) : intdec (s ^^^ 0x80) = intdec s := by
  rw [intdec_eq_and, intdec_eq_and]
  apply BitVec.eq_of_toNat_eq
  simp [Nat.and_xor_distrib_right]

/-- Settles O54: POLL_INT is a one-read command, and INTDEC is the mask of the seven mapped bits. -/
theorem pollIntAndDecodeIntReplaceTheFlags : Obligations.PollIntAndDecodeIntReplaceTheFlags := by
  simp only [Obligations.PollIntAndDecodeIntReplaceTheFlags, ← intdec_eq_and]
  exact ⟨fun _ hb => ⟨fun _ hd => busCommand_memRead_ok hb hd, fun he => busCommand_memRead_err hb he⟩, fun _ _ => rfl⟩

/-- Settles O55: the named flags are INTDEC's bits, of which bit 7 is 0, and equal INTDECs are equal masks. -/
theorem intdecMapsBitsToNamedFlags : Obligations.IntdecMapsBitsToNamedFlags := by
  refine ⟨fun s => ?_, intdec_xor_bit7, fun s t h => ?_⟩
  · simp only [eventFlags, intdec_getLsbD, Nat.reduceLT, decide_true, decide_false, Bool.and_true, Bool.and_false]
  · rwa [intdec_eq_and, intdec_eq_and] at h

end Sys2Proof.Machine
end

section
/-! SUPPORT. The power and identity commands (spec/45_power_identity.md R200 to R205), with O31 to O34: READ_ID and GET_POWER are one
transaction, and POWER_ON and INIT go on to a further read after an Ok. -/

namespace Sys2Proof.Machine

section
variable {s : State} {base : Regs} {addr : Byte} {n : Nat} {onOk : Burst → State → State}

/-- A block read that answers Ok hands its bytes to the rest of the command. -/
theorem State.memRead_ok {d : Burst} (hd : s.bus.nextAnswer = .ok d) :
    s.memRead base addr n onOk = onOk d { s with bus := s.bus.issue s.regs.busAddr (.memRead addr n) } :=
  State.transact_ok hd

/-- A block read that answers Err ends the command with CODE 1 (R101). -/
theorem State.memRead_err (he : s.bus.nextAnswer = .err) :
    s.memRead base addr n onOk =
      State.raiseBusError { s with bus := s.bus.issue s.regs.busAddr (.memRead addr n) } :=
  State.transact_err he

end

/-- Once the address is bound, the mirror is at its reset values, whatever stood there; CMD, the arguments and RESULT stay (R200). -/
theorem Regs.clearMirror_bind_release (r : Regs) (a : BitVec 7) :
    ((r.setAnomaly false).release.bind a).clearMirror =
      { State.reset.regs with
        cmd := r.cmd, arg0 := r.arg0, arg1 := r.arg1, code := r.code, result := r.result, bound := true, busAddr := a } := rfl

/-- Settles O31: INIT is an open and two reads in a row, each Ok handing on to the next, and the reads fill the fresh mirror. -/
theorem initBindsResetsTheMirrorAndReadsIdAndPower : Obligations.InitBindsResetsTheMirrorAndReadsIdAndPower := by
  intro d a s
  refine ⟨fun hopen => ?_, fun _ hopen hid => ?_, fun _ _ hopen hid hpower => ?_, fun _ _ _ hopen hid hpower => ?_⟩
  · exact congrArg Host.Outcome.next (State.transact_err hopen)
  · exact congrArg Host.Outcome.next (.trans (State.transact_ok hopen) (State.memRead_err hid))
  · refine congrArg Host.Outcome.next
      (.trans (State.transact_ok hopen) (.trans (State.memRead_ok hid) (.trans (State.memRead_err hpower) ?_)))
    simp only [State.start, State.update, State.raiseBusError, Regs.clearMirror_bind_release]
    rfl
  · refine congrArg Host.Outcome.next
      (.trans (State.transact_ok hopen) (.trans (State.memRead_ok hid) (.trans (State.memRead_ok hpower) ?_)))
    simp only [State.start, State.update, State.finishOk, Regs.clearMirror_bind_release]
    rfl

/-- Settles O32: READ_ID is a one-read command at DEVID, and ANOMALY, cleared before it, is what the check of the id says. -/
theorem readIdReturnsTheIdentifier : Obligations.ReadIdReturnsTheIdentifier := by
  refine fun _ hb => ⟨fun _ hd => (busCommand_memRead_ok hb hd).trans ?_, fun he => busCommand_memRead_err hb he⟩
  simp only [State.start, State.update, State.finishOk]
  rfl

/-- Settles O33: POWER_ON is a one-write command whose Ok goes on to a read, and ANOMALY is what the comparison of the two bytes
says. -/
theorem powerOnWritesAndReadsBack : Obligations.PowerOnWritesAndReadsBack := by
  intro m s hb
  refine ⟨fun hwrite => ?_, fun _ hwrite hread => ?_, fun _ _ hwrite hread => ?_⟩
  · exact busCommand_memWrite_err (v := fun _ => m) hb hwrite
  · exact (busCommand_memWrite_ok (v := fun _ => m) hb hwrite).trans (congrArg _ (State.memRead_err hread))
  · refine (busCommand_memWrite_ok (v := fun _ => m) hb hwrite).trans
      (congrArg Host.Outcome.next (.trans (State.memRead_ok hread) ?_))
    simp only [State.start, State.update, State.finishOk, Regs.noteAnomaly, decide_not]
    rfl

/-- Settles O34: GET_POWER is a one-read command at POWER_CTL. -/
theorem getPowerMirrorsThePowerStatus : Obligations.GetPowerMirrorsThePowerStatus :=
  fun _ hb => ⟨fun _ hd => busCommand_memRead_ok hb hd, fun he => busCommand_memRead_err hb he⟩

end Sys2Proof.Machine
end

section
/-! SUPPORT. What no command does (spec/60_exceptions.md R220), with O20. -/

namespace Sys2Proof.Machine

/-- Settles O20: by the shape of every command (`exec_next`): a bus command, a command without a bus, INIT, or ILLEGAL. -/
theorem everyCommandAnswersANextState : Obligations.EveryCommandAnswersANextState :=
  exec_next

end Sys2Proof.Machine
end

section
/-! SUPPORT. Reset (spec/70_reset_and_hazards.md R250 to R252, R263): the registers' reset values and the reset input, with
O15, O16. -/

namespace Sys2Proof.Machine

/-- Settles O15: the listed values are those of `Regs.reset`, and the sample among them is coherent (`Regs.reset_coherent`). -/
theorem resetStateHoldsTheListedValues : Obligations.ResetStateHoldsTheListedValues := by
  obtain ⟨hsample, -, -⟩ := Regs.reset_coherent
  exact ⟨rfl, rfl, rfl, rfl, rfl, rfl, rfl, rfl, rfl, rfl, rfl, rfl, rfl, rfl, rfl, rfl, rfl, rfl, rfl, rfl, rfl, hsample⟩

/-- The step that takes a reset is the same whether the block waits for the transport or not (R251, R263). -/
theorem step_reset {s : State} {rest : List HostInput} (hp : s.host.pending = .reset :: rest) :
    step s = .next (s.withPending rest).applyReset := by
  cases hflight : s.bus.inFlight with
  | none => rw [step_of_pending hflight hp, acceptInput]
  | some t => rw [step_of_waiting hflight, waitForTransport, hp]

/-- Settles O16: `step_reset`, and of the bus the reset changes only what is in flight, so the history gains no transaction (R252). -/
theorem resetInputAppliesTheResetState : Obligations.ResetInputAppliesTheResetState :=
  fun _ _ hp => step_reset hp

end Sys2Proof.Machine
end
